-- ==== Sys2Proof/Word.lean ====
section
/-!
DEFINITION. The word types of the core (spec 00_scope.md R10, 30_encoding.md R71).
-/

namespace Sys2Proof

/-- A byte, an unsigned integer 0..255 (R10). -/
abbrev Byte := BitVec 8

/-- A u16, an unsigned integer 0..65535 (R10): `LASTREG`, the running CRC, the cells of `TBL`. -/
abbrev Half := BitVec 16

/-- The event word `EV[10:0]` of the event port (R71). -/
abbrev EventWord := BitVec 11

end Sys2Proof
end

