-- ==== Sys2Proof/Machine/Constants.lean ====
section
/-!
DEFINITION. The fixed constants of the hardware (spec 00_scope.md R5).
-/

namespace Sys2Proof.Machine

/-- `CAP`: capacity in bytes of `ACC` and of `PREV` (R5; 90_conflicts.md C6: 300, not 256). -/
def cap : Nat := 300

/-- `RETRY_MAX`: largest value of the direction-flip retry counter (R5). -/
def retryMax : Nat := 4

/-- `REQ_LEN`: length in bytes of every request frame (R5). -/
def reqLen : Nat := 8

/-- Length in bytes of the fixed header of a response: slave id, function code, byte count (R76, R136). -/
def rspHeaderLen : Nat := 3

/-- `RSP_OVERHEAD`: bytes of a response frame that are not payload (R5; 90_conflicts.md C2: 5, not 3). -/
def rspOverhead : Nat := 5

/-- `CRC_POLY`: reflected generator polynomial (R5). -/
def crcPoly : Half := 0xA001

/-- `CRC_INIT`: seed of the running CRC (R5). -/
def crcInit : Half := 0xFFFF

/-- `FP_REQ`: previous-frame fingerprint of the vendor bug rule (R5). -/
def fpReq : List Byte := [0x03, 0x20, 0x06, 0x00, 0x2C]

/-- `FP_RSP`: current-frame fingerprint of the vendor bug rule (R5; 90_conflicts.md C1: 12 bytes). -/
def fpRsp : List Byte :=
  [0x03, 0x58, 0x45, 0x13, 0x80, 0x00, 0x45, 0x14, 0x00, 0x00, 0x45, 0x13]

end Sys2Proof.Machine
end

