-- ==== Sys2Proof/Syntax.lean ====
section
/-!
DEFINITION. The eight rows of spec/opcode_table.json as one inductive type: the six input events
(spec 30_encoding.md R70) and the two frame formats the decoder recognises (R74 to R76).
-/

namespace Sys2Proof

/-- The direction, which selects the frame format (10_state.md R31, 30_encoding.md R74). -/
inductive Dir where
  /-- `ExpectRequest`, code 0: the decoder applies format `REQ`. -/
  | expectRequest
  /-- `ExpectResponse`, code 1: the decoder applies format `RSP`. -/
  | expectResponse
  deriving DecidableEq, Repr

/-- The fields of a request frame, `REQ` (R75): 8 bytes on the wire. -/
structure ReqFrame where
  slaveId : Byte
  functionCode : Byte
  startRegister : Half
  registerCount : Half
  /-- The transmitted CRC, low byte first on the wire. The decoder does not examine it (R79). -/
  crc : Half
  deriving DecidableEq, Repr

/-- The header of a response frame, `RSP` (R76): 3 bytes on the wire. The payload and the CRC trailer
follow it in the accumulator, where the instruction's meaning reads them. -/
structure RspHeader where
  slaveId : Byte
  functionCode : Byte
  byteCount : Byte
  deriving DecidableEq, Repr

/-- The instructions: one constructor per row of the opcode table. -/
inductive Instr where
  /-- `RST`: reset the core (R118). -/
  | rst
  /-- `RXB b`: the byte source delivered byte `b` (R111). -/
  | rxb (b : Byte)
  /-- `GAP`: the inter-byte timeout elapsed with no byte (R113). -/
  | gap
  /-- `EOF`: the byte source is at end of stream (R115). -/
  | eof
  /-- `SERR`: the byte source failed (R116). -/
  | serr
  /-- `KERR`: the sink failed to write (R117). -/
  | kerr
  /-- `REQ`: a request frame at the front of the accumulator (R132). -/
  | req (f : ReqFrame)
  /-- `RSP`: a response frame's header at the front of the accumulator (R135). -/
  | rsp (h : RspHeader)
  deriving DecidableEq, Repr

end Sys2Proof
end

