-- ==== Sys2Proof/WellFormed.lean ====
section
/-!
DEFINITION. Which terms of `Instr` name an event or a frame of the spec.
-/

namespace Sys2Proof

/-- The one restriction the opcode table puts on operands: the `byte_count` of a response frame is
1..255 (30_encoding.md R78: `byte_count = 0` never yields a frame). Every other field takes every value
of its width (R72, R79). The decoder still reads a header with `byte_count = 0`, since it is what the
outcome `DirectionWrong` is decided on (R79, R135). -/
def Instr.wellFormed : Instr → Bool
  | .rst => true
  | .rxb _ => true
  | .gap => true
  | .eof => true
  | .serr => true
  | .kerr => true
  | .req _ => true
  | .rsp h => h.byteCount != 0

end Sys2Proof
end

