-- ==== Sys2Proof/Decode.lean ====
section
/-!
DEFINITION. Decoding, total and rejecting by name, and encoding: the event word (spec 30_encoding.md R71
to R73) and the two frame formats (R75 to R77). Byte order is fixed here, once (20_memory.md R51).
-/

namespace Sys2Proof

/-! ### Assembling and splitting u16 values (00_scope.md R10) -/

/-- `lo8(v)`. -/
def lo8 (v : Half) : Byte := v.extractLsb' 0 8

/-- `hi8(v)`. -/
def hi8 (v : Half) : Byte := v.extractLsb' 8 8

/-- `be16(a, b)`: the byte of the lower index, `a`, is the more significant. -/
def be16 (a b : Byte) : Half := a ++ b

/-- `le16(a, b)`: the byte of the lower index, `a`, is the less significant. -/
def le16 (a b : Byte) : Half := b ++ a

/-! ### Events -/

/-- Why bits are not an instruction. -/
inductive DecodeError where
  /-- `kind` 6 or 7 of an event word (R73). -/
  | reservedKind (kind : BitVec 3)
  /-- The fields of the selected frame format have not all arrived; `missing` bytes are still to come
  (R133, R136). -/
  | shortFrame (missing : Nat)
  deriving DecidableEq, Repr

/-- `EV[10:8]`. -/
def eventKind (w : EventWord) : BitVec 3 := w.extractLsb' 8 3

/-- `EV[7:0]`. -/
def eventData (w : EventWord) : Byte := w.extractLsb' 0 8

/-- The decoder of the event port (R71, R83): take `EV[10:8]`, look it up, refuse 6 and 7. The data
field is an operand of `RXB` only (R72). -/
def decodeEvent (w : EventWord) : Except DecodeError Instr :=
  match (eventKind w).toNat with
  | 0 => .ok .rst
  | 1 => .ok (.rxb (eventData w))
  | 2 => .ok .gap
  | 3 => .ok .eof
  | 4 => .ok .serr
  | 5 => .ok .kerr
  | _ => .error (.reservedKind (eventKind w))

/-- An event word from its two fields. -/
def eventWord (kind : BitVec 3) (data : Byte) : EventWord := kind ++ data

/-! ### Frames -/

/-- The fields of format `REQ` at the front of a byte sequence (R75), if all have arrived. -/
def parseReq : List Byte → Option ReqFrame
  | b0 :: b1 :: b2 :: b3 :: b4 :: b5 :: b6 :: b7 :: _ =>
    some { slaveId := b0, functionCode := b1, startRegister := be16 b2 b3,
           registerCount := be16 b4 b5, crc := le16 b6 b7 }
  | _ => none

/-- The header fields of format `RSP` at the front of a byte sequence (R76), if all have arrived. -/
def parseRsp : List Byte → Option RspHeader
  | b0 :: b1 :: b2 :: _ => some { slaveId := b0, functionCode := b1, byteCount := b2 }
  | _ => none

/-- The decoder of frames (R83): read `DIR`, apply R75 or R76. No bit of the frame selects the format
(R74). -/
def decodeFrame (dir : Dir) (bytes : List Byte) : Except DecodeError Instr :=
  match dir with
  | .expectRequest =>
    match parseReq bytes with
    | some f => .ok (.req f)
    | none => .error (.shortFrame (Machine.reqLen - bytes.length))
  | .expectResponse =>
    match parseRsp bytes with
    | some h => .ok (.rsp h)
    | none => .error (.shortFrame (Machine.rspHeaderLen - bytes.length))

/-! ### Encoded instructions -/

/-- The encoded form of an instruction: a word at the event port, or bytes at the front of the
accumulator under the direction that selects their format. -/
inductive Encoding where
  | event (w : EventWord)
  | frame (dir : Dir) (bytes : List Byte)
  deriving DecidableEq, Repr

/-- The decoder on either encoded form. -/
def decode : Encoding → Except DecodeError Instr
  | .event w => decodeEvent w
  | .frame dir bytes => decodeFrame dir bytes

/-- The 8 bytes of a request in wire order (R75). -/
def reqBytes (f : ReqFrame) : List Byte :=
  [f.slaveId, f.functionCode, hi8 f.startRegister, lo8 f.startRegister,
   hi8 f.registerCount, lo8 f.registerCount, lo8 f.crc, hi8 f.crc]

/-- The 3 header bytes of a response in wire order (R76). -/
def rspBytes (h : RspHeader) : List Byte := [h.slaveId, h.functionCode, h.byteCount]

/-- The encoder. Events without an operand carry `data = 0x00` (R81). -/
def encode : Instr → Encoding
  | .rst => .event (eventWord 0 0)
  | .rxb b => .event (eventWord 1 b)
  | .gap => .event (eventWord 2 0)
  | .eof => .event (eventWord 3 0)
  | .serr => .event (eventWord 4 0)
  | .kerr => .event (eventWord 5 0)
  | .req f => .frame .expectRequest (reqBytes f)
  | .rsp h => .frame .expectResponse (rspBytes h)

/-! ### The host's numbering of instruction bits -/

/-- The first `n` bytes of an instruction whose bits are `w`: bit 0 of `w` is the least significant bit
of the first byte, and a later byte's bits count on from it. -/
def bytesOfNat : Nat → Nat → List Byte
  | 0, _ => []
  | n + 1, w => BitVec.ofNat 8 w :: bytesOfNat n (w / 256)

/-- The encoded form of a table row of `nbits` bits (in whole bytes) whose bits are `w`: 64 bits are a
request; 24 bits are a response header, followed by `byte_count` zero payload bytes and a zero trailer
(R76); anything else is a word at the 11-bit event port (log entry 10). -/
def encodingOfTableWord (nbits w : Nat) : Encoding :=
  if nbits = 64 then .frame .expectRequest (bytesOfNat 8 w)
  else if nbits = 24 then
    .frame .expectResponse
      (bytesOfNat 3 w ++ List.replicate ((BitVec.ofNat 8 (w / 65536)).toNat + 2) 0)
  else .event (BitVec.ofNat 11 w)

/-- The instruction the decoder reads from a table row's bits. -/
def decodeTableWord (nbits w : Nat) : Option Instr :=
  (decode (encodingOfTableWord nbits w)).toOption

end Sys2Proof
end

