-- ==== Sys2Proof/Config.lean ====
section
/-!
DEFINITION. The configuration parameters of the core (spec 00_scope.md R6), fixed for a whole run, and
the two of them the spec leaves OPEN (92_eei_decisions.md D6, D22).
-/

namespace Sys2Proof

/-- The parameters of R6. The host's `step` takes a state only, so they stand in a field of `State` that
no event writes (log entry 3). -/
structure Config where
  /-- `T_GAP_US`, microseconds. Read by no rule of the core (R6, R181). -/
  tGapUs : Nat
  /-- `IGNORE_CRC`: a frame that fails the CRC is still passed to the sink. -/
  ignoreCrc : Bool
  /-- `CMD_MAX`, a partial function from function code to u16, as its list of entries (log entry 7). -/
  cmdMax : List (Byte × Half)
  /-- `RESET_LASTREG`: value of `LASTREG` after reset. -/
  resetLastReg : Half
  /-- `EXIT_FATAL`: the exit code reported after a fatal condition. -/
  exitFatal : Int
  deriving DecidableEq, Repr

/-- Free value: `RESET_LASTREG` is any u16 (R6, R41, D6). DESIGN CHOICE, log entry 4. -/
opaque Config.openResetLastReg : Half

/-- Free value behind `EXIT_FATAL` (R6, D22). DESIGN CHOICE, log entry 5. -/
opaque Config.openExitFatal : Int

/-- Every integer but 0, each reached from exactly one integer: `EXIT_FATAL` is any integer other than
0 (R6). -/
def Config.nonZero (n : Int) : Int := if n < 0 then n else n + 1

/-- The defaults of R6, the OPEN parameters left free. -/
def Config.default : Config :=
  { tGapUs := 1500
    ignoreCrc := false
    cmdMax := []
    resetLastReg := Config.openResetLastReg
    exitFatal := Config.nonZero Config.openExitFatal }

/-- What R6 and R14 require of the parameters: a positive timeout, a non-zero exit code, and at most one
command entry per function code. -/
def Config.wf (c : Config) : Bool :=
  decide (0 < c.tGapUs) && decide (c.exitFatal ≠ 0) && decide ((c.cmdMax.map Prod.fst).Nodup)

end Sys2Proof
end

