-- ==== Sys2Proof/Machine/State.lean ====
section
/-!
DEFINITION. The architectural state of the core (spec 10_state.md R20 to R37), the reasons for which a
step gives no next state, and the state after reset (R41).
-/

namespace Sys2Proof.Machine

/-- A byte memory, `ACC` or `PREV`: its valid bytes in index order, index 0 first. R61 allows this
representation by name: cells at and above the fill length are read by no rule and are not held, and the
fill length is the length of the list (log entry 2). Equal memories are equal lists. -/
abbrev Memory := List Byte

/-- `RUN`, the run status (R34). Code 3 never occurs and has no constructor. -/
inductive RunStatus where
  /-- Code 0: the core consumes events. -/
  | running
  /-- Code 1: the byte source reported end of stream. -/
  | haltEof
  /-- Code 2: a fatal condition occurred. -/
  | haltFatal
  deriving DecidableEq, Repr

/-- `CAUSE`, the fatal cause (R35, R171). Code 3 never occurs and has no constructor. -/
inductive Cause where
  /-- Code 0. -/
  | none
  /-- Code 1: I/O failure on the byte source distinct from timeout. -/
  | srcError
  /-- Code 2: I/O failure on the pcap file. -/
  | sinkError
  deriving DecidableEq, Repr

/-- What a `Warn` record warns of (R37). -/
inductive WarnKind where
  /-- `COUNT_EXCEEDS_MAX`: a request asked for more registers than the command dictionary allows. -/
  | countExceedsMax
  deriving DecidableEq, Repr

/-- The output records (R37). -/
inductive Record where
  /-- `Emit(F)`: the raw frame bytes including CRC, for the sink. -/
  | emit (frame : List Byte)
  /-- `Diag(F, ok)`: the accepted bytes and the CRC verdict, for the diagnostic channel. -/
  | diag (frame : List Byte) (ok : Bool)
  /-- `Warn(kind, fc, count, max)`, for the diagnostic channel. -/
  | warn (kind : WarnKind) (fc : Byte) (count max : Half)
  deriving DecidableEq, Repr

/-- The frame outcome, the decoder's result (R80, R131). Transient, not state (R33). -/
inductive FrameOutcome where
  /-- The candidate is exactly one frame. -/
  | done
  /-- The candidate is shorter than the frame it starts; `n` bytes are missing. -/
  | needsMoreBytes (n : Nat)
  /-- The candidate is a frame followed by `n` bytes. -/
  | hasTrailingBytes (n : Nat)
  /-- Under the current direction the candidate cannot be a frame. -/
  | directionWrong
  deriving DecidableEq, Repr

/-- The state: the tuple of R20 and `OUT`, the configuration parameters (log entry 3), and the events the
environment has yet to present (log entry 1). -/
structure State where
  /-- `ACC[0..SIZE)` (R26). -/
  acc : Memory
  /-- `PREV[0..PREV_LEN)` (R27). -/
  prev : Memory
  /-- `DIR` (R31). -/
  dir : Dir
  /-- `LASTREG` (R23). -/
  lastReg : Half
  /-- `RETRY`, 0..4 (R24). -/
  retry : Fin 5
  /-- `HOLD` (R32). -/
  hold : Bool
  /-- `RUN` (R34). -/
  run : RunStatus
  /-- `CAUSE` (R35). -/
  cause : Cause
  /-- `OUT`, oldest record first (R37). -/
  out : List Record
  /-- The parameters of R6, written by no event. -/
  cfg : Config
  /-- The event words the environment presents from now on, next first (R9, R70, R71). The model's own
  field. DESIGN CHOICE, log entry 1. -/
  port : List EventWord
  deriving DecidableEq, Repr

/-- `SIZE`, the accumulator fill length (R21). -/
abbrev State.size (s : State) : Nat := s.acc.length

/-- `PREV_LEN`, the length of the saved previous frame (R22). -/
abbrev State.prevLen (s : State) : Nat := s.prev.length

/-- There is no fault: no event and no frame content can make the core fault (R171). The spec's fatal
halt is a next state (R174). -/
inductive Fault
  deriving DecidableEq, Repr

/-- Why a step is given no next state. In each case but the first the spec itself says that a model gives
no step; each is safe, since nothing can be proved about the case. -/
inductive Refusal where
  /-- `exec` has no meaning for this instruction. Safe. -/
  | notModelled (mnemonic : String)
  /-- The next event word has a reserved kind, 6 or 7 (R73). Raised by the fetch. Safe. -/
  | reservedEvent (kind : BitVec 3)
  /-- An event other than `RST` while `RUN` is not `RUNNING` (R176). Raised by `RXB`, `GAP`, `EOF`,
  `SERR`, `KERR`. Safe. -/
  | eventWhileHalted
  /-- `RXB` while `SIZE = 300`, which cannot arise (R112). Raised by `RXB`. Safe. -/
  | accumulatorFull
  deriving DecidableEq, Repr

/-- The state after power-on, which is the same as `RST` (R41, R190), with the default parameters and no
event presented yet. `LASTREG` is the open parameter `RESET_LASTREG` (log entry 4). -/
def State.reset : State :=
  { acc := []
    prev := []
    dir := .expectRequest
    lastReg := Config.default.resetLastReg
    retry := 0
    hold := false
    run := .running
    cause := .none
    out := []
    cfg := Config.default
    port := [] }

end Sys2Proof.Machine
end

