-- ==== Sys2Proof/Machine/Ops.lean ====
section
/-!
DEFINITION. The named operations over memories, registers, the output trace and the event port, and the
entry of a fatal halt (spec 00_scope.md R11, 20_memory.md, 60_exceptions.md R174).
-/

namespace Sys2Proof.Machine

/-! ### Memories (20_memory.md) -/

/-- A memory is within its capacity (R21, R22, R26, R27). -/
def Memory.wf (m : Memory) : Bool := decide (m.length ≤ cap)

/-- One byte of a memory, `M[i]`. A cell at or above the fill length has no value (R61). -/
def Memory.byte (m : Memory) (i : Nat) : Option Byte := m[i]?

/-- `MemRead(M, i, n)`, the byte sequence `M[i..i+n)` (R11). Every rule that uses it guards `i + n` by the
fill length (R57). -/
def Memory.read (m : Memory) (i n : Nat) : List Byte := (m.drop i).take n

/-- `M[SIZE] <- b`, `SIZE <- SIZE + 1` (R111, R50). -/
def Memory.append (m : Memory) (b : Byte) : Memory := m ++ [b]

/-- The compaction move of R62 with `SIZE <- n`: the old `M[e..e+n)` stands at `M[0..n)`. -/
def Memory.compact (m : Memory) (e n : Nat) : Memory := m.read e n

/-! ### The output trace (R37) -/

/-- `OUT <- OUT ++ recs` (R11). -/
def State.put (s : State) (recs : List Record) : State := { s with out := s.out ++ recs }

/-! ### Run status (60_exceptions.md) -/

/-- `raise Fatal(c)` (R174): nothing is saved and nothing else is changed. There is no return from it:
only `RST` leaves a halted state (R176). -/
def raiseFatal (c : Cause) (s : State) : State := { s with run := .haltFatal, cause := c }

/-- The clean halt of `EOF` (R115, R175). -/
def haltClean (s : State) : State := { s with run := .haltEof }

/-- The values `RST` gives every register (R41, R118). The parameters keep their values, and the events
still to come are the environment's. -/
def resetRegisters (s : State) : State :=
  { s with
    acc := []
    prev := []
    dir := .expectRequest
    lastReg := s.cfg.resetLastReg
    retry := 0
    hold := false
    run := .running
    cause := .none
    out := [] }

/-- The precondition `RUN = RUNNING` of every event but `RST`; without it the event has no step (R176). -/
def whenRunning (s : State) (k : Host.Outcome State Fault Refusal) :
    Host.Outcome State Fault Refusal :=
  if s.run = .running then k else .refused .eventWhileHalted

/-- The exit code, an output of the halted core (R177). -/
def exitCode (s : State) : Option Int :=
  match s.run with
  | .running => none
  | .haltEof => some 0
  | .haltFatal => some s.cfg.exitFatal

/-- The code of `RUN` (R34). -/
def runCode : RunStatus → BitVec 2
  | .running => 0
  | .haltEof => 1
  | .haltFatal => 2

/-- The code of `CAUSE` (R35, R171). -/
def causeCode : Cause → BitVec 2
  | .none => 0
  | .srcError => 1
  | .sinkError => 2

/-! ### The event port -/

/-- The next event word and the state in which it is consumed, or `none` if the environment presents
nothing. -/
def fetchEvent (s : State) : Option (EventWord × State) :=
  match s.port with
  | [] => none
  | w :: rest => some (w, { s with port := rest })

/-- Present an encoded instruction so that the next step runs it. An event word goes to the front of the
port. A frame is not presented at the port (R11): its bytes become the candidate, `DIR` selects its
format, and a `GAP` makes the running core decode it (R113, R130); log entry 9. -/
def present (e : Encoding) (s : State) : State :=
  match e with
  | .event w => { s with port := w :: s.port }
  | .frame dir bytes =>
    { s with
      acc := bytes
      dir := dir
      hold := false
      run := .running
      cause := .none
      port := eventWord 2 0 :: s.port }

end Sys2Proof.Machine
end

