-- ==== Sys2Proof/Machine/Operands.lean ====
section
/-!
DEFINITION. The operands of the frame formats that are not fields of the frame: the command dictionary's
limit (spec 42_decoder.md R134) and the byte ranges of the two fingerprints (R139).
-/

namespace Sys2Proof.Machine

/-- `CMD_MAX(fc)` (R6, R134): `none` where the dictionary has no entry for the function code. -/
def cmdMax (c : Config) (fc : Byte) : Option Half := c.cmdMax.lookup fc

/-- The `Warn` record of R134, if there is one: an unsigned comparison, strictly greater. -/
def countWarning (c : Config) (f : ReqFrame) : List Record :=
  match cmdMax c f.functionCode with
  | some max =>
    if max < f.registerCount then [.warn .countExceedsMax f.functionCode f.registerCount max] else []
  | none => []

/-- The bytes of `PREV` that R139 compares with `FP_REQ`: `PREV[1..6)`. -/
def prevFingerprint (s : State) : List Byte := Memory.read s.prev 1 5

/-- The bytes of `ACC` that R139 compares with `FP_RSP`: `ACC[1..13)`. -/
def accFingerprint (s : State) : List Byte := Memory.read s.acc 1 12

end Sys2Proof.Machine
end

