-- ==== Sys2Proof/Machine/Crc.lean ====
section
/-!
DEFINITION. The CRC engine `CRC16`, its table, and the validator `CRCCHK` (spec 40_crc.md).
-/

namespace Sys2Proof.Machine

/-- One step of the inner loop of R90: bit 0 is tested, the value is shifted right, and the polynomial is
exclusive-ored in if the bit was 1. -/
def crcShift (t : Half) : Half :=
  if t.getLsbD 0 then (t >>> 1) ^^^ crcPoly else t >>> 1

/-- `n` steps of the inner loop. -/
def crcShifts : Nat → Half → Half
  | 0, t => t
  | n + 1, t => crcShifts n (crcShift t)

/-- The running CRC after one more byte (R90): the byte enters the low 8 bits, then eight steps. -/
def crcByte (crc : Half) (b : Byte) : Half := crcShifts 8 (crc ^^^ b.setWidth 16)

/-- `CRC16(B)`, the bit-serial definition (R90): no final exclusive-or, no reflection of the result. -/
def crc16 (bytes : List Byte) : Half := bytes.foldl crcByte crcInit

/-- `TBL[i]` as R91 computes it: eight steps on the 16-bit value `i`. -/
def tblEntry (i : Byte) : Half := crcShifts 8 (i.setWidth 16)

/-- `TBL`, the read-only memory of 256 cells of 16 bits (R28, R92). -/
def tbl : List Half := (List.range 256).map fun i => tblEntry (BitVec.ofNat 8 i)

/-- The running CRC after one more byte, in the table-driven form (R91). -/
def crcByteTbl (crc : Half) (b : Byte) : Half := (crc >>> 8) ^^^ tblEntry (lo8 crc ^^^ b)

/-- `CRC16(B)` in the table-driven form (R91). -/
def crc16Tbl (bytes : List Byte) : Half := bytes.foldl crcByteTbl crcInit

/-- `CRCCHK(F)` (R93): the last two bytes, low byte first, against the CRC of the bytes before them. With
fewer than two bytes there is no trailer and the verdict is `false`. -/
def crcChk (frame : List Byte) : Bool :=
  match frame.drop (frame.length - 2) with
  | [lo, hi] => crc16 (frame.take (frame.length - 2)) == le16 lo hi
  | _ => false

end Sys2Proof.Machine
end

