-- ==== Sys2Proof/Machine/Flags.lean ====
section
/-!
DEFINITION. The flags `DIR` and `HOLD` and the retry counter (spec 10_state.md R24, R31, R32). The core
has no arithmetic condition codes (R33).
-/

namespace Sys2Proof.Machine

/-- The code of `DIR` (R31). -/
def dirCode : Dir → BitVec 1
  | .expectRequest => 0
  | .expectResponse => 1

/-- `1 − DIR` (R31). -/
def flipDir : Dir → Dir
  | .expectRequest => .expectResponse
  | .expectResponse => .expectRequest

/-- What the controller does on a retried `DirectionWrong`: `DIR <- 1 − DIR; RETRY <- RETRY + 1` (R154). -/
def State.retryFlipped (s : State) : State :=
  { s with dir := flipDir s.dir, retry := s.retry + 1 }

/-- How many retries are left, `4 − RETRY` (R154). -/
def State.retriesLeft (s : State) : Nat := retryMax - s.retry.val

end Sys2Proof.Machine
end

