-- ==== Sys2Proof/Machine/Frames.lean ====
section
/-!
DEFINITION. The decoder state machine: `DECODE`, and the meanings of the frame formats `REQ` and `RSP`
(spec 42_decoder.md).
-/

namespace Sys2Proof.Machine

/-- `FPMATCH()` (R139): both literals lie wholly inside bytes 1..L−3 of their frames. -/
def fpMatch (s : State) : Bool :=
  (decide (8 ≤ s.prevLen) && prevFingerprint s == fpReq) &&
  (decide (15 ≤ s.size) && accFingerprint s == fpRsp)

/-- The outcome at completion of a frame of length `frameLen` in a candidate of length `len` (R140). -/
def completion (len frameLen : Nat) : FrameOutcome :=
  if len = frameLen then .done else .hasTrailingBytes (len - frameLen)

/-- `DECODE_REQ()` on the request at the front of the accumulator (R132 to R134). The CRC bytes and the
slave id are not looked at. -/
def decodeReq (f : ReqFrame) (s : State) : FrameOutcome × State :=
  if s.size < reqLen then (.needsMoreBytes (reqLen - s.size), s)
  else
    (completion s.size reqLen,
      { s with
        lastReg := f.startRegister
        out := s.out ++ countWarning s.cfg f
        dir := .expectResponse })

/-- The condition of the bug-tolerance rule (R137): the whole candidate is CRC-valid and the fingerprint
matches. -/
def bugTolerance (s : State) : Bool := crcChk s.acc && fpMatch s

/-- The byte count the response path works with (R76), if the frame is complete: the `byte_count` field,
or `len − 5` where the bug-tolerance rule replaces it (R137). `bc > len − 5` is a comparison of integers
(R94), written `len < bc + 5`. -/
def effectiveByteCount (h : RspHeader) (s : State) : Option Nat :=
  if s.size < h.byteCount.toNat + rspOverhead then
    if bugTolerance s then some (s.size - rspOverhead) else none
  else some h.byteCount.toNat

/-- `DECODE_RSP()` on the response header at the front of the accumulator (R135 to R137). A byte count of
0 is tested first. The payload walk writes no state (R138). -/
def decodeRsp (h : RspHeader) (s : State) : FrameOutcome × State :=
  if h.byteCount = 0 then (.directionWrong, s)
  else
    match effectiveByteCount h s with
    | some bc => (completion s.size (bc + rspOverhead), { s with dir := .expectRequest })
    | none => (.needsMoreBytes (h.byteCount.toNat + rspOverhead - s.size), s)

/-- `DECODE()` (R130), keyed by `DIR`. A candidate whose header has not arrived needs more bytes and
writes nothing (R133, R136). -/
def decodeCandidate (s : State) : FrameOutcome × State :=
  match s.dir with
  | .expectRequest =>
    match parseReq s.acc with
    | some f => decodeReq f s
    | none => (.needsMoreBytes (reqLen - s.size), s)
  | .expectResponse =>
    match parseRsp s.acc with
    | some h => decodeRsp h s
    | none => (.needsMoreBytes (rspHeaderLen - s.size), s)

/-- `REQ` (R132): what `DECODE_REQ` writes. Its outcome goes to the controller and is not state (R33). -/
def execReq (f : ReqFrame) (s : State) : Host.Outcome State Fault Refusal :=
  .next (decodeReq f s).2

/-- `RSP` (R135): what `DECODE_RSP` writes. Its outcome goes to the controller and is not state (R33). -/
def execRsp (h : RspHeader) (s : State) : Host.Outcome State Fault Refusal :=
  .next (decodeRsp h s).2

end Sys2Proof.Machine
end

