-- ==== Sys2Proof/Machine/Controller.lean ====
section
/-!
DEFINITION. The controller: `ACCEPT`, and `SERVICE` with its direction-flip retry (spec 43_controller.md).
-/

namespace Sys2Proof.Machine

/-- The records `ACCEPT` appends for the accepted bytes `frame` (R156): `Emit` if the CRC is valid or
ignored, then always `Diag`. -/
def acceptRecords (ignoreCrc : Bool) (frame : List Byte) : List Record :=
  (if crcChk frame || ignoreCrc then [.emit frame] else []) ++ [.diag frame (crcChk frame)]

/-- `ACCEPT(e)` (R156): the snapshot of a CRC-valid frame (R63) and the records. -/
def accept (e : Nat) (s : State) : State :=
  let frame := Memory.read s.acc 0 e
  State.put { s with prev := if crcChk frame then frame else s.prev }
    (acceptRecords s.cfg.ignoreCrc frame)

/-- What the controller does with an outcome it does not retry: R151 `NeedsMoreBytes`, R152 `Done`, R153
`HasTrailingBytes`, R155 `DirectionWrong` with the retries exhausted. -/
def settle (o : FrameOutcome) (s : State) : State :=
  match o with
  | .needsMoreBytes _ => { s with hold := true, retry := 0 }
  | .done => { accept s.size s with acc := [], retry := 0 }
  | .hasTrailingBytes n =>
    { accept (s.size - n) s with acc := Memory.compact s.acc (s.size - n) n, retry := 0 }
  | .directionWrong => { accept s.size s with acc := [], retry := 0 }

/-- The loop of `SERVICE` (R150) with `left` retries left: decode; on `DirectionWrong` with a retry left,
flip, count and repeat on the same bytes (R154); otherwise settle the outcome. -/
def serviceLoop : Nat → State → State
  | 0, s => settle (decodeCandidate s).1 (decodeCandidate s).2
  | left + 1, s =>
    match decodeCandidate s with
    | (.directionWrong, t) => serviceLoop left t.retryFlipped
    | (o, t) => settle o t

/-- `SERVICE()` (R150). The loop starts with `4 − RETRY` retries left, so that it repeats exactly while
`RETRY < 4`. -/
def service (s : State) : State := serviceLoop s.retriesLeft s

end Sys2Proof.Machine
end

