-- ==== Sys2Proof/Machine/Events.lean ====
section
/-!
DEFINITION. The meanings of the six input events (spec 41_segmenter.md R111 to R118).
-/

namespace Sys2Proof.Machine

/-- `RST` (R118): accepted in every state, halted ones included. -/
def execRst (s : State) : Host.Outcome State Fault Refusal := .next (resetRegisters s)

/-- `ACC[SIZE] <- b; SIZE <- SIZE + 1; HOLD <- 0` (R111). -/
def receive (b : Byte) (s : State) : State := { s with acc := Memory.append s.acc b, hold := false }

/-- `RXB b` (R111): append the byte; `SERVICE` if that fills the accumulator. No step when it is full
already (R112). -/
def execRxb (b : Byte) (s : State) : Host.Outcome State Fault Refusal :=
  whenRunning s <|
    if s.size < cap then
      .next (if (receive b s).size = cap then service (receive b s) else receive b s)
    else .refused .accumulatorFull

/-- `GAP` (R113): `SERVICE` if bytes are pending and not held, otherwise no effect at all. -/
def execGap (s : State) : Host.Outcome State Fault Refusal :=
  whenRunning s <|
    .next (if 0 < s.size ∧ s.hold = false then service s else s)

/-- `EOF` (R115): a clean halt, whatever `SIZE` is (90_conflicts.md C3). -/
def execEof (s : State) : Host.Outcome State Fault Refusal :=
  whenRunning s (.next (haltClean s))

/-- `SERR` (R116). -/
def execSerr (s : State) : Host.Outcome State Fault Refusal :=
  whenRunning s (.next (raiseFatal .srcError s))

/-- `KERR` (R117). -/
def execKerr (s : State) : Host.Outcome State Fault Refusal :=
  whenRunning s (.next (raiseFatal .sinkError s))

end Sys2Proof.Machine
end

