-- ==== Sys2Proof/Machine/Dispatch.lean ====
section
/-!
DEFINITION. The dispatch of an instruction to its meaning, one arm per constructor of `Instr`.
-/

namespace Sys2Proof.Machine

def exec (i : Instr) (s : State) : Host.Outcome State Fault Refusal :=
  match i with
  -- the six input events (41_segmenter.md)
  | .rst => Sys2Proof.Machine.execRst s
  | .rxb b => Sys2Proof.Machine.execRxb b s
  | .gap => Sys2Proof.Machine.execGap s
  | .eof => Sys2Proof.Machine.execEof s
  | .serr => Sys2Proof.Machine.execSerr s
  | .kerr => Sys2Proof.Machine.execKerr s
  -- the two frame formats (42_decoder.md)
  | .req f => Sys2Proof.Machine.execReq f s
  | .rsp h => Sys2Proof.Machine.execRsp h s

end Sys2Proof.Machine
end

