-- ==== Sys2Proof/Machine/Step.lean ====
section
/-!
DEFINITION. One step of the core: consume one input event, to completion (spec 00_scope.md R8). `REQ` and
`RSP` are run inside the step, by the decoder (42_decoder.md R130).
-/

namespace Sys2Proof.Machine

/-- The core consumes the next event word. While no event is presented it is idle and keeps all its state
(60_exceptions.md R184). A reserved event word is refused (30_encoding.md R73). -/
def step (s : State) : Host.Outcome State Fault Refusal :=
  match fetchEvent s with
  | none => .next s
  | some (w, t) =>
    match decodeEvent w with
    | .ok i => exec i t
    | .error _ => .refused (.reservedEvent (eventKind w))

/-- `s` with the table word `w` of `nbits` bits standing where the next step fetches it (log entry 9). -/
def State.withFetchWord (s : State) (nbits w : Nat) : State :=
  present (encodingOfTableWord nbits w) s

end Sys2Proof.Machine
end

