-- ==== Sys2Proof/Machine/Trace.lean ====
section
/-!
DEFINITION. The event-trace notation: the words of an event and of the pseudo-operations `CHUNK`, `FRAME`
and `IDLE` (spec 30_encoding.md R81, R82).
-/

namespace Sys2Proof.Machine

/-- `CHUNK b0 ... bk`: one `RXB` per byte, in order. -/
def chunk (bytes : List Byte) : List EventWord := bytes.map (eventWord 1)

/-- A frame body followed by its correct trailer, low byte first (R82, R93). -/
def withTrailer (body : List Byte) : List Byte := body ++ [lo8 (crc16 body), hi8 (crc16 body)]

/-- `FRAME b0 ... bk`. -/
def frameWords (body : List Byte) : List EventWord := chunk (withTrailer body)

/-- `IDLE k`: `GAP` repeated `k` times. -/
def idle (k : Nat) : List EventWord := List.replicate k (eventWord 2 0)

end Sys2Proof.Machine
end

