-- ==== Sys2Proof/Safety.lean ====
section
/-!
DEFINITION. The terms in which claims about the core are made: its invariant between events (spec
10_state.md R40), the end of a run and its observable result (70_reset_and_hazards.md R202).
-/

namespace Sys2Proof.Machine

/-- `HOLD = 1` implies `SIZE > 0` and `DECODE` would again return `NeedsMoreBytes` (R40 item 4). -/
def HoldJustified (s : State) : Prop :=
  s.hold = true → 0 < s.size ∧ ∃ n, (decodeCandidate s).1 = .needsMoreBytes n

/-- The invariants of R40, which hold between events. -/
structure Inv (s : State) : Prop where
  /-- Item 1. -/
  size_lt : s.size ≤ 299
  /-- Item 2, the bound. -/
  prevLen_le : s.prevLen ≤ 300
  /-- Item 2: a saved frame passed the CRC check and has its trailer. -/
  prev_valid : 0 < s.prevLen → crcChk s.prev = true ∧ 2 ≤ s.prevLen
  /-- Item 3. -/
  retry_zero : s.retry = 0
  /-- Item 4. -/
  hold_justified : HoldJustified s
  /-- Item 5. -/
  cause_iff : s.cause ≠ .none ↔ s.run = .haltFatal

/-- The byte an instruction itself appends to the accumulator, before any `SERVICE` inside it (R111). -/
def bytesReceived : Instr → List Byte
  | .rxb b => [b]
  | .rst => []
  | .gap => []
  | .eof => []
  | .serr => []
  | .kerr => []
  | .req _ => []
  | .rsp _ => []

/-- The observable result of a run, `(OUT, RUN, CAUSE, exit code)`; the run is over when `RUN` is not
`RUNNING` (R202). -/
structure RunResult where
  out : List Record
  run : RunStatus
  cause : Cause
  exitCode : Option Int
  deriving DecidableEq, Repr

/-- The observable result in the final state of a run (R202). -/
def runResult (s : State) : RunResult :=
  { out := s.out, run := s.run, cause := s.cause, exitCode := exitCode s }

end Sys2Proof.Machine
end

