-- ==== Sys2Proof/Certificates/Slice0/Obligations.lean ====
section
/-!
DEFINITION. The statements about the model, for the provers. Each formalises the rule of spec/ its
docstring names.
-/

open Sys2Proof Sys2Proof.Machine

/-! ### Encodings (30_encoding.md) -/

/-- R71: an event word is the event of the row with `w & mask = match`, and `RXB` carries `EV[7:0]`; kinds
6 and 7 are no event. -/
def Obligations.EventWordsDecodeByMatchAndMask : Prop :=
  ∀ w : EventWord,
    (w &&& 0x700 = 0x000 → decodeEvent w = .ok .rst) ∧
    (w &&& 0x700 = 0x100 → decodeEvent w = .ok (.rxb (w.extractLsb' 0 8))) ∧
    (w &&& 0x700 = 0x200 → decodeEvent w = .ok .gap) ∧
    (w &&& 0x700 = 0x300 → decodeEvent w = .ok .eof) ∧
    (w &&& 0x700 = 0x400 → decodeEvent w = .ok .serr) ∧
    (w &&& 0x700 = 0x500 → decodeEvent w = .ok .kerr) ∧
    (w &&& 0x700 = 0x600 → decodeEvent w = .error (.reservedKind 6)) ∧
    (w &&& 0x700 = 0x700 → decodeEvent w = .error (.reservedKind 7))

/-- R72: the byte of `RXB` is `EV[7:0]` as is; for every other kind the data field is a don't-care. -/
def Obligations.DataFieldIsOperandOfReceiveOnly : Prop :=
  (∀ b : Byte, decodeEvent (0x100 ||| b.setWidth 11) = .ok (.rxb b)) ∧
  ∀ w w' : EventWord,
    w.extractLsb' 8 3 = w'.extractLsb' 8 3 → w.extractLsb' 8 3 ≠ 1 → decodeEvent w = decodeEvent w'

/-- Words written out from R71, R75 and R76 decode to the instructions they stand for. -/
def Obligations.WrittenOutWordsDecode : Prop :=
  decode (.event 0b001_11000101) = .ok (.rxb 0xC5) ∧
  decode (.event 0b010_10100101) = .ok .gap ∧
  decode (.frame .expectRequest [0x11, 0x03, 0x00, 0x6B, 0x00, 0x03, 0x76, 0x87]) =
    .ok (.req { slaveId := 0x11, functionCode := 0x03, startRegister := 0x006B,
                registerCount := 0x0003, crc := 0x8776 }) ∧
  decode (.frame .expectResponse [0x01, 0x03, 0x14, 0x00, 0x01]) =
    .ok (.rsp { slaveId := 0x01, functionCode := 0x03, byteCount := 0x14 })

/-- R75: the request layout, byte by byte, for every function code. Below 8 bytes there is no request to
decode, only the count of bytes still missing (R133, by the inference of log entry 6). -/
def Obligations.RequestFieldsAreAssembledBigEndian : Prop :=
  (∀ (a f s1 s0 n1 n0 c0 c1 : Byte) (rest : List Byte),
    ∃ r : ReqFrame,
      decodeFrame .expectRequest (a :: f :: s1 :: s0 :: n1 :: n0 :: c0 :: c1 :: rest) = .ok (.req r) ∧
      r.slaveId = a ∧ r.functionCode = f ∧
      r.startRegister.toNat = 256 * s1.toNat + s0.toNat ∧
      r.registerCount.toNat = 256 * n1.toNat + n0.toNat ∧
      r.crc.toNat = c0.toNat + 256 * c1.toNat) ∧
  ∀ bytes : List Byte, bytes.length < 8 →
    decodeFrame .expectRequest bytes = .error (.shortFrame (8 - bytes.length))

/-- Decoding an encoded instruction gives it back, for every instruction; and bytes that follow an encoded
frame do not change what is decoded. -/
def Obligations.DecodeInvertsEncode : Prop :=
  (∀ i : Instr, decode (encode i) = .ok i) ∧
  ∀ (i : Instr) (dir : Dir) (bytes rest : List Byte),
    encode i = .frame dir bytes → decode (.frame dir (bytes ++ rest)) = .ok i

/-- Encoding a decoded instruction gives back its word, its data field cleared where the event ignores it,
or the front of its bytes. -/
def Obligations.EncodeInvertsDecode : Prop :=
  (∀ (w : EventWord) (i : Instr), decode (.event w) = .ok i →
    ((∃ b, i = .rxb b) ∧ encode i = .event w) ∨
    ((∀ b, i ≠ .rxb b) ∧ encode i = .event (w &&& 0x700))) ∧
  ∀ (dir : Dir) (bytes : List Byte) (i : Instr), decode (.frame dir bytes) = .ok i →
    ∃ front rest, encode i = .frame dir front ∧ bytes = front ++ rest

/-! ### The step (00_scope.md R8, 30_encoding.md R73) -/

/-- A step runs the decoded event, in the state in which its word has been consumed from the port (the
model's own field, log entry 1). -/
def Obligations.StepRunsTheDecodedEvent : Prop :=
  ∀ (s : State) (w : EventWord) (rest : List EventWord) (i : Instr),
    s.port = w :: rest → decode (.event w) = .ok i → step s = exec i { s with port := rest }

/-- R73: a reserved event word is given no step. -/
def Obligations.ReservedWordIsRefused : Prop :=
  ∀ (s : State) (w : EventWord) (rest : List EventWord),
    s.port = w :: rest → (w.extractLsb' 8 3 = 6 ∨ w.extractLsb' 8 3 = 7) →
      step s = .refused (.reservedEvent (w.extractLsb' 8 3))

/-- A `GAP` step runs the frame at the front of the accumulator: the instruction the frame decoder reads
there has exactly `DECODE`'s effect, and around it the step adds the consumption of the event word and the
controller's handling of the outcome, which for a retried `DirectionWrong` is the same service again on
the flipped direction. -/
def Obligations.GapStepRunsTheFrameAtTheFront : Prop :=
  ∀ (s : State) (w : EventWord) (rest : List EventWord) (i : Instr),
    s.port = w :: rest → decode (.event w) = .ok .gap →
    s.run = .running → 0 < s.size → s.hold = false →
    decode (.frame s.dir s.acc) = .ok i →
      exec i { s with port := rest } = .next (decodeCandidate { s with port := rest }).2 ∧
      ((decodeCandidate { s with port := rest }).1 ≠ .directionWrong →
        step s = .next (settle (decodeCandidate { s with port := rest }).1
          (decodeCandidate { s with port := rest }).2)) ∧
      ((decodeCandidate { s with port := rest }).1 = .directionWrong → s.retry.val < 4 →
        step s = .next (service
          { s with port := rest, dir := flipDir s.dir, retry := s.retry + 1 }))

/-- The host's placement of an instruction (log entry 9): an event word is run as it stands; a frame is
run by the service of the candidate it becomes. -/
def Obligations.PlacedWordIsRunByTheNextStep : Prop :=
  (∀ (s : State) (nbits w : Nat) (ev : EventWord) (i : Instr),
    encodingOfTableWord nbits w = .event ev → decodeTableWord nbits w = some i →
      step (s.withFetchWord nbits w) = exec i s) ∧
  ∀ (s : State) (nbits w : Nat) (dir : Dir) (bytes : List Byte),
    encodingOfTableWord nbits w = .frame dir bytes → bytes ≠ [] →
      step (s.withFetchWord nbits w) =
        .next (service { s with acc := bytes, dir := dir, hold := false, run := .running, cause := .none })

/-- Every event is one step that takes exactly its own word from the port, and with no event presented the
core is idle and keeps all its state (R8, R179, R184; the port is the model's own, log entry 1). -/
def Obligations.StepConsumesOneEvent : Prop :=
  (∀ s : State, s.port = [] → step s = .next s) ∧
  ∀ s t : State, step s = .next t → t.port = s.port.tail

/-! ### Events (41_segmenter.md) -/

/-- R118: what `RST` leaves, in every state; the parameters and the events to come are not changed. -/
def Obligations.ResetWritesTheListedValues : Prop :=
  ∀ s : State,
    exec .rst s =
      .next { s with
        acc := [], prev := [], dir := .expectRequest, lastReg := s.cfg.resetLastReg
        retry := 0, hold := false, run := .running, cause := .none, out := [] }

/-- R41: the state at power-on has the listed values, and `RST` leads to it from every state but for the
parameters, which it does not change, and the events to come (log entries 1 and 3). -/
def Obligations.PowerOnStateIsTheResetState : Prop :=
  State.reset.size = 0 ∧ State.reset.prevLen = 0 ∧ State.reset.dir = .expectRequest ∧
  State.reset.lastReg = State.reset.cfg.resetLastReg ∧ State.reset.retry = 0 ∧
  State.reset.hold = false ∧ State.reset.run = .running ∧ State.reset.cause = .none ∧
  State.reset.out = [] ∧
  State.reset.cfg.tGapUs = 1500 ∧ State.reset.cfg.ignoreCrc = false ∧
  (∀ fc, cmdMax State.reset.cfg fc = none) ∧
  ∀ s : State, exec .rst s =
    .next { State.reset with lastReg := s.cfg.resetLastReg, cfg := s.cfg, port := s.port }

/-- R111: the byte is stored at index `SIZE`, the hold is cleared, and `SERVICE` runs inside the same
event exactly when the accumulator becomes full; the event always leaves `SIZE < 300`. -/
def Obligations.ReceiveAppendsTheByte : Prop :=
  ∀ (s : State) (b : Byte), s.run = .running → s.size < 300 →
    (s.size ≠ 299 → exec (.rxb b) s = .next { s with acc := s.acc ++ [b], hold := false }) ∧
    (s.size = 299 →
      exec (.rxb b) s = .next (service { s with acc := s.acc ++ [b], hold := false })) ∧
    ∀ t, exec (.rxb b) s = .next t → t.size < 300

/-- R112: `RXB` has no step with `SIZE = 300`, and no event leads from `SIZE ≤ 299` to it. -/
def Obligations.ReceiveIntoFullAccumulatorIsRefused : Prop :=
  (∀ (s : State) (b : Byte), s.run = .running → s.size = 300 →
    exec (.rxb b) s = .refused .accumulatorFull) ∧
  ∀ (i : Instr) (s t : State), s.size ≤ 299 → exec i s = .next t → t.size ≤ 299

/-- R113: `GAP` runs `SERVICE` if bytes are pending and not held, and otherwise has no effect at all. -/
def Obligations.GapServicesPendingBytes : Prop :=
  ∀ s : State, s.run = .running →
    (0 < s.size ∧ s.hold = false → exec .gap s = .next (service s)) ∧
    (s.size = 0 ∨ s.hold = true → exec .gap s = .next s)

/-- R113 corner case (b): under a justified hold (R40 item 4), re-invoking the decoder would change
nothing. -/
def Obligations.HeldGapEqualsReinvokingTheDecoder : Prop :=
  ∀ s : State, HoldJustified s → s.retry = 0 → s.hold = true → service s = s

/-- R115: `EOF` halts cleanly whatever `SIZE` is, and changes nothing else. -/
def Obligations.EndOfStreamHaltsCleanly : Prop :=
  ∀ s : State, s.run = .running → exec .eof s = .next { s with run := .haltEof }

/-- R116, R117, R174: a fatal event records its cause, halts, and changes nothing else. -/
def Obligations.FatalEventsRecordTheirCause : Prop :=
  ∀ s : State, s.run = .running →
    exec .serr s = .next { s with run := .haltFatal, cause := .srcError } ∧
    exec .kerr s = .next { s with run := .haltFatal, cause := .sinkError }

/-- R176: a halted core consumes no event other than `RST`, which leaves the halt and discards everything. -/
def Obligations.HaltedCoreConsumesOnlyReset : Prop :=
  ∀ s : State, s.run ≠ .running →
    (∀ b, exec (.rxb b) s = .refused .eventWhileHalted) ∧
    exec .gap s = .refused .eventWhileHalted ∧
    exec .eof s = .refused .eventWhileHalted ∧
    exec .serr s = .refused .eventWhileHalted ∧
    exec .kerr s = .refused .eventWhileHalted ∧
    ∃ t, exec .rst s = .next t ∧ t.run = .running ∧ t.cause = .none ∧ t.acc = [] ∧ t.prev = [] ∧ t.out = []

/-- R177: the exit code, 0 for a clean halt, the parameter `EXIT_FATAL` for both causes, none while
running; a legal parameter is not 0. -/
def Obligations.ExitCodeIsAFunctionOfRunStatus : Prop :=
  ∀ s : State,
    (s.run = .running → (runResult s).exitCode = none) ∧
    (s.run = .haltEof → (runResult s).exitCode = some 0) ∧
    (s.run = .haltFatal → (runResult s).exitCode = some s.cfg.exitFatal ∧
      (s.cfg.wf = true → (runResult s).exitCode ≠ some 0))

/-- R31, R34, R35: the numeric codes of `DIR`, `RUN` and `CAUSE`; flipping `DIR` is `1 − DIR`. -/
def Obligations.StatusCodesAreAsListed : Prop :=
  dirCode .expectRequest = 0 ∧ dirCode .expectResponse = 1 ∧
  (∀ d, dirCode (flipDir d) = 1 - dirCode d) ∧
  runCode .running = 0 ∧ runCode .haltEof = 1 ∧ runCode .haltFatal = 2 ∧
  causeCode .none = 0 ∧ causeCode .srcError = 1 ∧ causeCode .sinkError = 2

/-! ### The CRC engine (40_crc.md) -/

/-- Values of `CRC16` from R90 and 95_test_vectors.md V10, V11, V13, V15 and from the one example the
source gives, V1. -/
def Obligations.CrcHasTheListedValues : Prop :=
  crc16 [] = 0xFFFF ∧ crc16 [0x00] = 0x40BF ∧ crc16 [0x01] = 0x807E ∧
  crc16 [0x31, 0x32, 0x33, 0x34, 0x35, 0x36, 0x37, 0x38, 0x39] = 0x4B37 ∧
  crc16 [0x01, 0x03, 0x00, 0x00, 0x00, 0x0A] = 0xCDC5

/-- R91: the table's contents, the table-driven update, and the spec's own inference (marked `derived`
there) that the two forms return the same value for every byte sequence. -/
def Obligations.TableFormEqualsBitSerialForm : Prop :=
  (∀ i : Byte, tbl[i.toNat]? = some (crcShifts 8 (i.setWidth 16))) ∧
  (∀ (crc : Half) (b : Byte),
    ∃ v, tbl[((crc ^^^ b.setWidth 16) &&& 0xFF).toNat]? = some v ∧
      crcByteTbl crc b = (crc >>> 8) ^^^ v) ∧
  ∀ bytes : List Byte, crc16Tbl bytes = crc16 bytes

/-- R92: the contents of `TBL`, which the spec derives from R91. -/
def Obligations.TableHasTheListedContents : Prop :=
  tbl = listedTable

/-- R93: fewer than two bytes never validate; otherwise the verdict compares the CRC of the bytes before
the trailer with the trailer, low byte first. -/
def Obligations.CrcChkComparesTheTrailer : Prop :=
  (∀ frame : List Byte, frame.length < 2 → crcChk frame = false) ∧
  ∀ (body : List Byte) (lo hi : Byte),
    crcChk (body ++ [lo, hi]) = true ↔ (crc16 body).toNat = lo.toNat + 256 * hi.toNat

/-- R95 items 1 and 2, the spec's own inferences: the correct trailer drives the running CRC to zero, so a
verdict is true exactly when the CRC of the whole is zero; and the engine may be fed byte by byte. -/
def Obligations.CorrectTrailerDrivesCrcToZero : Prop :=
  (∀ m : List Byte, crc16 (withTrailer m) = 0) ∧
  (∀ frame : List Byte, 2 ≤ frame.length → (crcChk frame = true ↔ crc16 frame = 0)) ∧
  ∀ m n : List Byte, crc16 (m ++ n) = n.foldl crcByte (crc16 m)

/-- R95 item 3, the spec's own inference, and more: changing one byte, in one bit or in several, changes
the CRC, so a valid frame with one byte changed is not valid. -/
def Obligations.OneChangedByteIsDetected : Prop :=
  (∀ (m n : List Byte) (a b : Byte), a ≠ b → crc16 (m ++ a :: n) ≠ crc16 (m ++ b :: n)) ∧
  ∀ (m n : List Byte) (a b : Byte), a ≠ b →
    crcChk (m ++ a :: n) = true → crcChk (m ++ b :: n) = false

/-! ### The decoder (42_decoder.md) -/

/-- R132, with R133 for a short candidate and R134 for the warning: the outcome of `DECODE_REQ`, and what
`REQ` writes. The comparison with the dictionary's limit is unsigned and strict, and neither it nor its
record changes the outcome or any register. The limit is the dictionary's: `CMD_MAX` of a legal dictionary
is defined exactly at the function codes that have an entry, with the entry's value (R6; the list form of
the dictionary is the model's choice, log entry 7). -/
def Obligations.RequestWritesStartRegisterAndDirection : Prop :=
  (∀ (c : Config) (fc : Byte) (max : Half),
    c.wf = true → (cmdMax c fc = some max ↔ (fc, max) ∈ c.cmdMax)) ∧
  (∀ (c : Config) (fc : Byte), (∀ max, (fc, max) ∉ c.cmdMax) → cmdMax c fc = none) ∧
  ∀ (f : ReqFrame) (s : State),
    (s.size < 8 →
      (decodeReq f s).1 = .needsMoreBytes (8 - s.size) ∧ exec (.req f) s = .next s) ∧
    (8 ≤ s.size →
      (decodeReq f s).1 = (if s.size = 8 then .done else .hasTrailingBytes (s.size - 8)) ∧
      exec (.req f) s =
        .next { s with
          lastReg := f.startRegister
          out := s.out ++
            (match cmdMax s.cfg f.functionCode with
             | some max =>
               if max.toNat < f.registerCount.toNat then
                 [.warn .countExceedsMax f.functionCode f.registerCount max]
               else []
             | none => [])
          dir := .expectResponse })

/-- R133, R136: a candidate whose header has not arrived needs more bytes and writes nothing. -/
def Obligations.ShortCandidateNeedsMoreBytes : Prop :=
  ∀ s : State,
    (s.dir = .expectRequest → s.size < 8 → decodeCandidate s = (.needsMoreBytes (8 - s.size), s)) ∧
    (s.dir = .expectResponse → s.size < 3 → decodeCandidate s = (.needsMoreBytes (3 - s.size), s))

/-- R135: `DECODE_RSP` and what `RSP` writes. Below 3 bytes there is no byte count yet. A byte count of 0
is `DirectionWrong` and writes nothing; a complete frame flips `DIR` to `ExpectRequest` and writes nothing
else; an incomplete one is accepted whole if the CRC and the fingerprint both hold, and otherwise needs
more bytes and writes nothing. -/
def Obligations.ResponseCompletesByItsByteCount : Prop :=
  ∀ (h : RspHeader) (s : State),
    (s.dir = .expectResponse → s.size < 3 → decodeCandidate s = (.needsMoreBytes (3 - s.size), s)) ∧
    (h.byteCount.toNat = 0 →
      (decodeRsp h s).1 = .directionWrong ∧ exec (.rsp h) s = .next s) ∧
    (1 ≤ h.byteCount.toNat → (h.byteCount.toNat : Int) ≤ (s.size : Int) - 5 →
      (decodeRsp h s).1 =
        (if s.size = h.byteCount.toNat + 5 then .done
         else .hasTrailingBytes (s.size - (h.byteCount.toNat + 5))) ∧
      exec (.rsp h) s = .next { s with dir := .expectRequest }) ∧
    (1 ≤ h.byteCount.toNat → (s.size : Int) - 5 < (h.byteCount.toNat : Int) →
      crcChk s.acc = true → fpMatch s = true →
      (decodeRsp h s).1 = .done ∧ exec (.rsp h) s = .next { s with dir := .expectRequest }) ∧
    (1 ≤ h.byteCount.toNat → (s.size : Int) - 5 < (h.byteCount.toNat : Int) →
      ¬(crcChk s.acc = true ∧ fpMatch s = true) →
      (decodeRsp h s).1 = .needsMoreBytes (h.byteCount.toNat + 5 - s.size) ∧
      exec (.rsp h) s = .next s)

/-- R137: the bug-tolerance rule. Where both conditions hold the candidate is one frame whatever its byte
count says, `DIR` flips, and the accumulator is not rewritten; where one of them fails the rule does not
apply. -/
def Obligations.BugToleranceAcceptsTheWholeCandidate : Prop :=
  ∀ (s : State) (h : RspHeader),
    s.dir = .expectResponse → decode (.frame s.dir s.acc) = .ok (.rsp h) →
    1 ≤ h.byteCount.toNat → (s.size : Int) - 5 < (h.byteCount.toNat : Int) →
      (crcChk s.acc = true ∧ fpMatch s = true →
        decodeCandidate s = (.done, { s with dir := .expectRequest })) ∧
      (¬(crcChk s.acc = true ∧ fpMatch s = true) →
        ∃ n, decodeCandidate s = (.needsMoreBytes n, s))

/-- R139: the fingerprint, byte by byte. The slave ids are not compared. -/
def Obligations.FingerprintComparesTheListedBytes : Prop :=
  ∀ s : State,
    fpMatch s = true ↔
      (8 ≤ s.prevLen ∧
        ∀ k, k < 5 → Memory.byte s.prev (1 + k) = ([0x03, 0x20, 0x06, 0x00, 0x2C] : List Byte)[k]?) ∧
      (15 ≤ s.size ∧
        ∀ k, k < 12 → Memory.byte s.acc (1 + k) =
          ([0x03, 0x58, 0x45, 0x13, 0x80, 0x00, 0x45, 0x14, 0x00, 0x00, 0x45, 0x13] : List Byte)[k]?)

/-- R130: `DECODE` is keyed by `DIR`, may write `LASTREG` and `DIR` and append one `Warn` record, and
writes nothing else. -/
def Obligations.DecoderWritesOnlyItsRegisters : Prop :=
  (∀ s f, s.dir = .expectRequest → decode (.frame s.dir s.acc) = .ok (.req f) →
    decodeCandidate s = decodeReq f s) ∧
  (∀ s h, s.dir = .expectResponse → decode (.frame s.dir s.acc) = .ok (.rsp h) →
    decodeCandidate s = decodeRsp h s) ∧
  ∀ s t o, decodeCandidate s = (o, t) →
    t = { s with lastReg := t.lastReg, dir := t.dir, out := t.out } ∧
    (t.out = s.out ∨ ∃ fc count max, t.out = s.out ++ [.warn .countExceedsMax fc count max])

/-- R79: the decoder rejects nothing on content but a response with a byte count of 0. -/
def Obligations.OnlyZeroByteCountIsDirectionWrong : Prop :=
  ∀ s : State,
    (decodeCandidate s).1 = .directionWrong ↔
      s.dir = .expectResponse ∧ Memory.byte s.acc 2 = some 0

/-- R140: both paths flip `DIR` exactly at completion, and the remaining count is `SIZE` less the frame
length, which is 8 or 5 more than the effective byte count; without completion nothing is written. -/
def Obligations.DirectionFlipsExactlyAtCompletion : Prop :=
  ∀ s t o, decodeCandidate s = (o, t) →
    (∀ n, (o = .done ∧ n = 0) ∨ (o = .hasTrailingBytes n ∧ 1 ≤ n) →
      t.dir = flipDir s.dir ∧
      (s.dir = .expectRequest → s.size = 8 + n) ∧
      (s.dir = .expectResponse → ∃ h bc,
        decode (.frame s.dir s.acc) = .ok (.rsp h) ∧ effectiveByteCount h s = some bc ∧
        s.size = bc + 5 + n)) ∧
    o ≠ .hasTrailingBytes 0 ∧
    (∀ n, o = .needsMoreBytes n → t = s) ∧
    (o = .directionWrong → t = s)

/-- The spec's own inferences in R141 and R137 (each marked `derived` there): the bounds of the outcomes
and of an overridden byte count, and that the outcome is a function of `DIR`, the candidate, the saved
frame and the dictionary. -/
def Obligations.OutcomesAreBounded : Prop :=
  (∀ s n, s.size ≤ 300 → (decodeCandidate s).1 = .needsMoreBytes n →
    1 ≤ n ∧ n ≤ 257 ∧
    (s.dir = .expectRequest → s.size < 8) ∧ (s.dir = .expectResponse → s.size < 260)) ∧
  (∀ s n, s.size ≤ 300 → (decodeCandidate s).1 = .hasTrailingBytes n →
    1 ≤ n ∧ n ≤ s.size - 6 ∧ s.size - 6 ≤ 294 ∧ 6 ≤ s.size - n ∧
    (s.dir = .expectRequest → s.size - n = 8) ∧ s.size - n ≤ 260) ∧
  (∀ s, s.size ≤ 300 → (decodeCandidate s).1 = .done →
    (s.dir = .expectRequest → s.size = 8) ∧ 6 ≤ s.size ∧ s.size ≤ 260) ∧
  (∀ s, s.size = 300 → (service s).size < 300) ∧
  (∀ (s : State) (b : Byte), (s.size : Int) - 5 < (b.toNat : Int) → fpMatch s = true →
    10 ≤ s.size - 5 ∧ s.size - 5 < 256) ∧
  ∀ s s' : State, s.dir = s'.dir → s.acc = s'.acc → s.prev = s'.prev → s.cfg.cmdMax = s'.cfg.cmdMax →
    (decodeCandidate s).1 = (decodeCandidate s').1

/-! ### The controller (43_controller.md) -/

/-- R156: the snapshot of a CRC-valid frame and the records, `Emit` before `Diag`; nothing else is
written. -/
def Obligations.AcceptSnapshotsAndReports : Prop :=
  ∀ (s : State) (e : Nat), 1 ≤ e → e ≤ s.size →
    (crcChk (s.acc.take e) = true →
      accept e s = { s with
        prev := s.acc.take e
        out := s.out ++ [.emit (s.acc.take e), .diag (s.acc.take e) true] }) ∧
    (crcChk (s.acc.take e) = false → s.cfg.ignoreCrc = false →
      accept e s = { s with out := s.out ++ [.diag (s.acc.take e) false] }) ∧
    (crcChk (s.acc.take e) = false → s.cfg.ignoreCrc = true →
      accept e s = { s with
        out := s.out ++ [.emit (s.acc.take e), .diag (s.acc.take e) false] })

/-- R151, R152, R153: what the controller does with the three outcomes that end a service. -/
def Obligations.ServiceSettlesTheOutcome : Prop :=
  ∀ s t : State,
    (∀ n, decodeCandidate s = (.needsMoreBytes n, t) →
      service s = { t with hold := true, retry := 0 }) ∧
    (decodeCandidate s = (.done, t) →
      service s = { accept t.size t with acc := [], retry := 0 }) ∧
    ∀ n, decodeCandidate s = (.hasTrailingBytes n, t) →
      service s = { accept (s.size - n) t with acc := s.acc.drop (s.size - n), retry := 0 }

/-- R154, with the spec's own inference there that one retry is the most: a `DirectionWrong` with a retry
left flips `DIR`, counts, and repeats on the same bytes; the second decode is never `DirectionWrong`, so
one retry is the most a service can take. -/
def Obligations.DirectionWrongIsRetriedOnce : Prop :=
  ∀ s t : State, decodeCandidate s = (.directionWrong, t) → s.retry.val < 4 →
    t = s ∧
    service s = service { s with dir := flipDir s.dir, retry := s.retry + 1 } ∧
    (decodeCandidate { s with dir := flipDir s.dir, retry := s.retry + 1 }).1 ≠ .directionWrong

/-- R155: with the retries exhausted the whole accumulator is accepted and cleared, the counter is reset,
and `DIR` is not flipped. -/
def Obligations.ExhaustedRetriesAcceptAndClear : Prop :=
  ∀ s t : State, decodeCandidate s = (.directionWrong, t) → s.retry.val = 4 →
    service s = { accept s.size s with acc := [], retry := 0 } ∧ (service s).dir = s.dir

/-- R62, R63: after a frame with `n` trailing bytes, byte `a` of the accumulator is the old byte
`SIZE − n + a`, and `SIZE = n`; the saved frame is the old front if it is CRC-valid, and is untouched
otherwise. That a cell at index `n` or above reads as no byte is no rule of the spec, which lets such cells
hold leftovers (R61): it is the model's choice of log entry 2. -/
def Obligations.CompactionAndSnapshotMoveBytes : Prop :=
  ∀ (s t : State) (n : Nat), decodeCandidate s = (.hasTrailingBytes n, t) →
    (∀ a, a < n → Memory.byte (service s).acc a = Memory.byte s.acc (s.size - n + a)) ∧
    (∀ a, n ≤ a → Memory.byte (service s).acc a = none) ∧
    (service s).size = n ∧
    (crcChk (s.acc.take (s.size - n)) = true →
      (service s).prevLen = s.size - n ∧
      ∀ a, a < s.size - n → Memory.byte (service s).prev a = Memory.byte s.acc a) ∧
    (crcChk (s.acc.take (s.size - n)) = false →
      ∀ a, Memory.byte (service s).prev a = Memory.byte s.prev a)

/-- R159, the spec's own inference: how `DIR` changes over a service, by the outcomes of its decodes. -/
def Obligations.ServiceAccountsForDirection : Prop :=
  ∀ s : State, s.retry.val < 4 →
    ((decodeCandidate s).1 = .done ∨ (∃ n, (decodeCandidate s).1 = .hasTrailingBytes n) →
      (service s).dir = flipDir s.dir) ∧
    ((∃ n, (decodeCandidate s).1 = .needsMoreBytes n) → (service s).dir = s.dir) ∧
    ((decodeCandidate s).1 = .directionWrong →
      ((∃ n, (decodeCandidate s.retryFlipped).1 = .needsMoreBytes n) →
        (service s).dir = .expectRequest) ∧
      ((decodeCandidate s.retryFlipped).1 = .done ∨
        (∃ n, (decodeCandidate s.retryFlipped).1 = .hasTrailingBytes n) →
        (service s).dir = s.dir))

/-- R157: what an event adds to the trace, and that no frame leaves the accumulator unreported. Every event
but `RST` appends at most one `Warn`; then either it takes no byte from the accumulator and appends nothing
more, or it takes one frame from the front and appends exactly one `Diag` of that frame with its verdict,
preceded by `Emit` of the same frame exactly if the verdict is true or `IGNORE_CRC` is set. The accumulator
the service sees is the old one with the byte of an `RXB` appended. -/
def Obligations.FrameIsEmittedExactlyIfCrcValid : Prop :=
  ∀ (i : Instr) (s t : State), i ≠ .rst → exec i s = .next t →
    ∃ warns recs : List Record, t.out = s.out ++ warns ++ recs ∧
      (warns = [] ∨ ∃ fc count max, warns = [.warn .countExceedsMax fc count max]) ∧
      ((recs = [] ∧ t.acc = s.acc ++ bytesReceived i) ∨ ∃ frame,
        frame ≠ [] ∧ s.acc ++ bytesReceived i = frame ++ t.acc ∧
        ((crcChk frame = true ∧ recs = [.emit frame, .diag frame true]) ∨
         (crcChk frame = false ∧ s.cfg.ignoreCrc = false ∧ recs = [.diag frame false]) ∨
         (crcChk frame = false ∧ s.cfg.ignoreCrc = true ∧ recs = [.emit frame, .diag frame false])))

/-- R27: the saved frame is replaced only when a frame passes the CRC, by that frame, which is then the
last one reported. -/
def Obligations.SavedFrameIsReplacedOnlyByValidFrames : Prop :=
  ∀ (i : Instr) (s t : State), i ≠ .rst → exec i s = .next t →
    t.prev = s.prev ∨
    (crcChk t.prev = true ∧ ∃ before, t.out = before ++ [.emit t.prev, .diag t.prev true])

/-- From R153 and R156, by inference: no byte is lost or reordered by a service. A `GAP` either keeps the
accumulator or takes from its front exactly the frame it reports, valid or not. -/
def Obligations.GapTakesExactlyTheReportedFrame : Prop :=
  ∀ s t : State, exec .gap s = .next t →
    t.acc = s.acc ∨
    ∃ frame before, s.acc = frame ++ t.acc ∧ frame ≠ [] ∧
      t.out = before ++ [.diag frame (crcChk frame)]

/-- R196, the spec's own inference: a CRC-invalid frame still advances the state machine: its bytes are
consumed and the decoder's writes stand, and it is neither emitted nor saved. -/
def Obligations.InvalidFrameIsDroppedButConsumed : Prop :=
  ∀ s t : State, s.run = .running → 0 < s.size → s.hold = false → s.cfg.ignoreCrc = false →
    decodeCandidate s = (.done, t) → crcChk s.acc = false →
      exec .gap s =
        .next { t with acc := [], retry := 0, out := t.out ++ [.diag s.acc false] } ∧
      t.dir = flipDir s.dir ∧ t.prev = s.prev

/-! ### The whole machine -/

/-- R40 (items 1, 2 and 4 are the spec's own inferences): the invariants hold after every step that starts
in them. -/
def Obligations.StepKeepsTheInvariant : Prop :=
  ∀ s t : State, Inv s → step s = .next t → Inv t

/-- R40: the invariants hold at reset. -/
def Obligations.InvariantHoldsAtReset : Prop :=
  Inv State.reset

/-- R171: no event and no frame content makes the running core stop without a next state. -/
def Obligations.EveryEventCompletesWhileRunning : Prop :=
  ∀ (i : Instr) (s : State), s.run = .running → s.size < 300 → ∃ t, exec i s = .next t

/-- R6, R36: nothing in the core writes the configuration parameters, and their defaults are legal (the
values of the OPEN ones are free, log entries 4 and 5). -/
def Obligations.ConfigurationIsNeverWritten : Prop :=
  Config.default.wf = true ∧ ∀ s t : State, step s = .next t → t.cfg = s.cfg

/-- R20, R37: the core only appends to `OUT` and never reads it. Every event but `RST` does the same
whatever stands before in the trace. -/
def Obligations.OutputTraceIsOnlyAppendedTo : Prop :=
  ∀ (i : Instr) (s : State) (before : List Record), i ≠ .rst →
    (∀ t, exec i s = .next t →
      exec i { s with out := before ++ s.out } = .next { t with out := before ++ t.out }) ∧
    ∀ r, exec i s = .refused r → exec i { s with out := before ++ s.out } = .refused r

/-- R23: `LASTREG` is write-only. Two states that differ in it alone stay equal but for it. -/
def Obligations.LastRegisterNumberIsWriteOnly : Prop :=
  ∀ (i : Instr) (s : State) (v : Half),
    (∀ t, exec i s = .next t → ∃ w, exec i { s with lastReg := v } = .next { t with lastReg := w }) ∧
    ∀ r, exec i s = .refused r → exec i { s with lastReg := v } = .refused r

/-- R6, R181: the value of `T_GAP_US` has no effect on any event. -/
def Obligations.TimeoutValueHasNoEffect : Prop :=
  ∀ (i : Instr) (s : State) (us : Nat),
    (∀ t, exec i s = .next t →
      exec i { s with cfg := { s.cfg with tGapUs := us } } =
        .next { t with cfg := { t.cfg with tGapUs := us } }) ∧
    ∀ r, exec i s = .refused r → exec i { s with cfg := { s.cfg with tGapUs := us } } = .refused r

/-- Frame of the instructions that store to no memory, and of the byte that `RXB` stores: which registers
each leaves alone, and that every byte of both memories outside the stored one reads as before. -/
def Obligations.UnwrittenStateIsKept : Prop :=
  (∀ (s t : State) (b : Byte), s.size ≠ 299 → exec (.rxb b) s = .next t →
    (∀ a, a ≠ s.size → Memory.byte t.acc a = Memory.byte s.acc a) ∧
    Memory.byte t.acc s.size = some b ∧
    (∀ a, Memory.byte t.prev a = Memory.byte s.prev a) ∧
    t.dir = s.dir ∧ t.lastReg = s.lastReg ∧ t.retry = s.retry ∧ t.run = s.run ∧ t.cause = s.cause ∧
    t.out = s.out ∧ t.cfg = s.cfg) ∧
  (∀ (s t : State) (i : Instr),
    i = .eof ∨ i = .serr ∨ i = .kerr ∨ (∃ f, i = .req f) ∨ (∃ h, i = .rsp h) → exec i s = .next t →
    (∀ a, Memory.byte t.acc a = Memory.byte s.acc a) ∧
    (∀ a, Memory.byte t.prev a = Memory.byte s.prev a) ∧
    t.retry = s.retry ∧ t.hold = s.hold ∧ t.cfg = s.cfg) ∧
  (∀ (s t : State) (i : Instr),
    i = .eof ∨ i = .serr ∨ i = .kerr → exec i s = .next t →
    t.dir = s.dir ∧ t.lastReg = s.lastReg ∧ t.out = s.out) ∧
  (∀ (s t : State), exec .eof s = .next t → t.cause = s.cause) ∧
  (∀ (s t : State) (f : ReqFrame), exec (.req f) s = .next t → t.run = s.run ∧ t.cause = s.cause) ∧
  ∀ (s t : State) (h : RspHeader), exec (.rsp h) s = .next t →
    t.run = s.run ∧ t.cause = s.cause ∧ t.lastReg = s.lastReg ∧ t.out = s.out

/-- Frame of `GAP`: `RUN`, `CAUSE` and the parameters are not written, a held `GAP` changes nothing, and
`LASTREG` is kept where no request can be parsed. -/
def Obligations.ServiceKeepsStatusAndParameters : Prop :=
  ∀ s t : State, exec .gap s = .next t →
    t.run = s.run ∧ t.cause = s.cause ∧ t.cfg = s.cfg ∧
    (s.hold = true → t = s) ∧
    (t.retry = 0 ∨ t = s) ∧
    (s.dir = .expectResponse → Memory.byte s.acc 2 ≠ some 0 → t.lastReg = s.lastReg)

/-! ### Runs of events -/

/-- R82, R50: a chunk that does not fill the accumulator is appended to it in wire order, and no decode
happens. -/
def Obligations.ChunkIsAppendedInWireOrder : Prop :=
  ∀ (bytes : List Byte) (s : State) (rest : List EventWord),
    s.run = .running → s.port = chunk bytes ++ rest → s.size + bytes.length < 300 → bytes ≠ [] →
      core.run bytes.length s = .next { s with acc := s.acc ++ bytes, hold := false, port := rest }

/-- 95_test_vectors.md V8 item 2: two frames fed as one buffer are served as if fed apart. The first is a
complete frame of the expected direction; what follows it is anything. -/
def Obligations.GluedFramesAreServedLikeFramesApart : Prop :=
  ∀ (s u : State) (first rest : List Byte),
    s.run = .running → s.hold = false → rest ≠ [] →
    (s.dir = .expectRequest → first.length = 8) →
    (s.dir = .expectResponse →
      ∃ b, Memory.byte first 2 = some b ∧ b ≠ 0 ∧ first.length = b.toNat + 5) →
    exec .gap { s with acc := first } = .next u →
      u.acc = [] ∧ exec .gap { s with acc := first ++ rest } = .next { u with acc := rest }

/-- From an idle running core that expects a request, the eight bytes of a request frame with its correct
trailer and one `GAP` lead to exactly one `Emit` of those bytes: end to end, R82, R111, R113, R132, R150,
R156. -/
def Obligations.CompleteRequestIsEmitted : Prop :=
  ∀ (s : State) (a f s1 s0 n1 n0 : Byte) (rest : List EventWord),
    s.run = .running → s.acc = [] → s.dir = .expectRequest → s.retry = 0 → cmdMax s.cfg f = none →
    s.port = frameWords [a, f, s1, s0, n1, n0] ++ idle 1 ++ rest →
      core.run 9 s =
        .next { s with
          acc := []
          prev := withTrailer [a, f, s1, s0, n1, n0]
          dir := .expectResponse
          lastReg := be16 s1 s0
          hold := false
          out := s.out ++ [.emit (withTrailer [a, f, s1, s0, n1, n0]),
                           .diag (withTrailer [a, f, s1, s0, n1, n0]) true]
          port := rest }

/-- From an idle running core that expects a response, a response frame with its correct trailer and one
`GAP` lead to exactly one `Emit` of those bytes: R82, R111, R113, R135, R150, R156. -/
def Obligations.CompleteResponseIsEmitted : Prop :=
  ∀ (s : State) (a f : Byte) (payload : List Byte) (rest : List EventWord),
    s.run = .running → s.acc = [] → s.dir = .expectResponse → s.retry = 0 →
    1 ≤ payload.length → payload.length ≤ 255 →
    s.port =
      frameWords (a :: f :: BitVec.ofNat 8 payload.length :: payload) ++ idle 1 ++ rest →
      core.run (payload.length + 6) s =
        .next { s with
          acc := []
          prev := withTrailer (a :: f :: BitVec.ofNat 8 payload.length :: payload)
          dir := .expectRequest
          hold := false
          out := s.out ++
            [.emit (withTrailer (a :: f :: BitVec.ofNat 8 payload.length :: payload)),
             .diag (withTrailer (a :: f :: BitVec.ofNat 8 payload.length :: payload)) true]
          port := rest }
end

