-- ==== Sys2Proof/Laws/Decode.lean ====
section
/-!
SUPPORT. The byte-order helpers, the event word and the frame parsers: what each answers.
-/

namespace Sys2Proof

/-- A u16 is assembled from its two bytes. -/
theorem be16_hi8_lo8 (v : Half) : be16 (hi8 v) (lo8 v) = v := by
  ext i hi
  simp [be16, hi8, lo8]
  grind

theorem le16_lo8_hi8 (v : Half) : le16 (lo8 v) (hi8 v) = v := be16_hi8_lo8 v

@[simp] theorem hi8_be16 (a b : Byte) : hi8 (be16 a b) = a := by
  ext i hi
  have := BitVec.getLsbD_append (x := a) (y := b) (i := 8 + i)
  simpa [be16, hi8, BitVec.getLsbD_eq_getElem hi] using this
@[simp] theorem lo8_be16 (a b : Byte) : lo8 (be16 a b) = b := by
  ext i hi
  have := BitVec.getLsbD_append (x := a) (y := b) (i := i)
  simpa [be16, lo8, hi] using this
@[simp] theorem lo8_le16 (a b : Byte) : lo8 (le16 a b) = a := lo8_be16 b a
@[simp] theorem hi8_le16 (a b : Byte) : hi8 (le16 a b) = b := hi8_be16 b a

/-- `be16` in numbers (00_scope.md R10). -/
theorem be16_toNat (a b : Byte) : (be16 a b).toNat = a.toNat * 256 + b.toNat := by
  have := BitVec.toNat_append a b
  rw [Nat.shiftLeft_eq, Nat.mul_comm, ← Nat.two_pow_add_eq_or_of_lt b.isLt] at this
  rw [be16, this]
  omega

/-- `le16` in numbers (00_scope.md R10). -/
theorem le16_toNat (a b : Byte) : (le16 a b).toNat = a.toNat + b.toNat * 256 := by
  rw [Nat.add_comm]
  exact be16_toNat b a

@[simp] theorem eventKind_eventWord (k : BitVec 3) (d : Byte) : eventKind (eventWord k d) = k := by
  ext i hi
  have := BitVec.getLsbD_append (x := k) (y := d) (i := 8 + i)
  simpa [eventKind, eventWord, BitVec.getLsbD_eq_getElem hi] using this
@[simp] theorem eventData_eventWord (k : BitVec 3) (d : Byte) : eventData (eventWord k d) = d := by
  ext i hi
  have := BitVec.getLsbD_append (x := k) (y := d) (i := i)
  simpa [eventData, eventWord, hi] using this

theorem eventWord_kind_data (w : EventWord) : eventWord (eventKind w) (eventData w) = w := by
  ext i hi
  simp [eventData, eventKind, eventWord]
  grind

/-- A request header is missing exactly below 8 bytes (R133). -/
theorem parseReq_eq_none_iff (bytes : List Byte) : parseReq bytes = none ↔ bytes.length < 8 := by
  unfold parseReq
  split
  · simp
  · rename_i h
    rcases bytes with _ | ⟨_, _ | ⟨_, _ | ⟨_, _ | ⟨_, _ | ⟨_, _ | ⟨_, _ | ⟨_, _ | ⟨_, _⟩⟩⟩⟩⟩⟩⟩⟩ <;>
      first | exact absurd rfl (h _ _ _ _ _ _ _ _ _) | simp

/-- A response header is missing exactly below 3 bytes (R136). -/
theorem parseRsp_eq_none_iff (bytes : List Byte) : parseRsp bytes = none ↔ bytes.length < 3 := by
  unfold parseRsp
  split
  · simp
  · rename_i h
    rcases bytes with _ | ⟨_, _ | ⟨_, _ | ⟨_, _⟩⟩⟩ <;>
      first | exact absurd rfl (h _ _ _ _) | simp

/-- Bytes after the frame do not change what is read (R78). -/
theorem parseReq_append {bytes : List Byte} {f : ReqFrame} (h : parseReq bytes = some f)
    (rest : List Byte) : parseReq (bytes ++ rest) = some f := by
  unfold parseReq at h
  split at h
  · exact h
  · exact absurd h (by simp)

/-- Bytes after the header do not change what is read. -/
theorem parseRsp_append {bytes : List Byte} {r : RspHeader} (h : parseRsp bytes = some r)
    (rest : List Byte) : parseRsp (bytes ++ rest) = some r := by
  unfold parseRsp at h
  split at h
  · exact h
  · exact absurd h (by simp)

/-- What is read as a request stands at the front, byte for byte. -/
theorem parseReq_some {bytes : List Byte} {f : ReqFrame} (h : parseReq bytes = some f) :
    ∃ rest, bytes = reqBytes f ++ rest := by
  unfold parseReq at h
  split at h
  · cases h; exact ⟨_, by simp [reqBytes]; rfl⟩
  · exact absurd h (by simp)

/-- What is read as a response header stands at the front, byte for byte. -/
theorem parseRsp_some {bytes : List Byte} {r : RspHeader} (h : parseRsp bytes = some r) :
    ∃ rest, bytes = rspBytes r ++ rest := by
  unfold parseRsp at h
  split at h
  · cases h; exact ⟨_, rfl⟩
  · exact absurd h (by simp)
end Sys2Proof
end

