-- ==== Sys2Proof/Laws/State.lean ====
section
/-!
SUPPORT. What each update of the state does to each field, so that no proof unfolds a record update.
-/

namespace Sys2Proof.Machine

/-! ### `State.put` -/

@[simp] theorem State_put_acc (s : State) (recs : List Record) : (s.put recs).acc = s.acc := rfl
@[simp] theorem State_put_prev (s : State) (recs : List Record) : (s.put recs).prev = s.prev := rfl
@[simp] theorem State_put_dir (s : State) (recs : List Record) : (s.put recs).dir = s.dir := rfl
@[simp] theorem State_put_lastReg (s : State) (recs : List Record) : (s.put recs).lastReg = s.lastReg := rfl
@[simp] theorem State_put_retry (s : State) (recs : List Record) : (s.put recs).retry = s.retry := rfl
@[simp] theorem State_put_hold (s : State) (recs : List Record) : (s.put recs).hold = s.hold := rfl
@[simp] theorem State_put_run (s : State) (recs : List Record) : (s.put recs).run = s.run := rfl
@[simp] theorem State_put_cause (s : State) (recs : List Record) : (s.put recs).cause = s.cause := rfl
@[simp] theorem State_put_out (s : State) (recs : List Record) : (s.put recs).out = s.out ++ recs := rfl
@[simp] theorem State_put_cfg (s : State) (recs : List Record) : (s.put recs).cfg = s.cfg := rfl
@[simp] theorem State_put_port (s : State) (recs : List Record) : (s.put recs).port = s.port := rfl

/-! ### `raiseFatal` -/

@[simp] theorem raiseFatal_acc (c : Cause) (s : State) : (raiseFatal c s).acc = s.acc := rfl
@[simp] theorem raiseFatal_prev (c : Cause) (s : State) : (raiseFatal c s).prev = s.prev := rfl
@[simp] theorem raiseFatal_dir (c : Cause) (s : State) : (raiseFatal c s).dir = s.dir := rfl
@[simp] theorem raiseFatal_lastReg (c : Cause) (s : State) : (raiseFatal c s).lastReg = s.lastReg := rfl
@[simp] theorem raiseFatal_retry (c : Cause) (s : State) : (raiseFatal c s).retry = s.retry := rfl
@[simp] theorem raiseFatal_hold (c : Cause) (s : State) : (raiseFatal c s).hold = s.hold := rfl
@[simp] theorem raiseFatal_run (c : Cause) (s : State) : (raiseFatal c s).run = .haltFatal := rfl
@[simp] theorem raiseFatal_cause (c : Cause) (s : State) : (raiseFatal c s).cause = c := rfl
@[simp] theorem raiseFatal_out (c : Cause) (s : State) : (raiseFatal c s).out = s.out := rfl
@[simp] theorem raiseFatal_cfg (c : Cause) (s : State) : (raiseFatal c s).cfg = s.cfg := rfl
@[simp] theorem raiseFatal_port (c : Cause) (s : State) : (raiseFatal c s).port = s.port := rfl

/-! ### `haltClean` -/

@[simp] theorem haltClean_acc (s : State) : (haltClean s).acc = s.acc := rfl
@[simp] theorem haltClean_prev (s : State) : (haltClean s).prev = s.prev := rfl
@[simp] theorem haltClean_dir (s : State) : (haltClean s).dir = s.dir := rfl
@[simp] theorem haltClean_lastReg (s : State) : (haltClean s).lastReg = s.lastReg := rfl
@[simp] theorem haltClean_retry (s : State) : (haltClean s).retry = s.retry := rfl
@[simp] theorem haltClean_hold (s : State) : (haltClean s).hold = s.hold := rfl
@[simp] theorem haltClean_run (s : State) : (haltClean s).run = .haltEof := rfl
@[simp] theorem haltClean_cause (s : State) : (haltClean s).cause = s.cause := rfl
@[simp] theorem haltClean_out (s : State) : (haltClean s).out = s.out := rfl
@[simp] theorem haltClean_cfg (s : State) : (haltClean s).cfg = s.cfg := rfl
@[simp] theorem haltClean_port (s : State) : (haltClean s).port = s.port := rfl

/-! ### `resetRegisters` -/

@[simp] theorem resetRegisters_acc (s : State) : (resetRegisters s).acc = [] := rfl
@[simp] theorem resetRegisters_prev (s : State) : (resetRegisters s).prev = [] := rfl
@[simp] theorem resetRegisters_dir (s : State) : (resetRegisters s).dir = .expectRequest := rfl
@[simp] theorem resetRegisters_lastReg (s : State) : (resetRegisters s).lastReg = s.cfg.resetLastReg := rfl
@[simp] theorem resetRegisters_retry (s : State) : (resetRegisters s).retry = 0 := rfl
@[simp] theorem resetRegisters_hold (s : State) : (resetRegisters s).hold = false := rfl
@[simp] theorem resetRegisters_run (s : State) : (resetRegisters s).run = .running := rfl
@[simp] theorem resetRegisters_cause (s : State) : (resetRegisters s).cause = .none := rfl
@[simp] theorem resetRegisters_out (s : State) : (resetRegisters s).out = [] := rfl
@[simp] theorem resetRegisters_cfg (s : State) : (resetRegisters s).cfg = s.cfg := rfl
@[simp] theorem resetRegisters_port (s : State) : (resetRegisters s).port = s.port := rfl

/-! ### `State.retryFlipped` -/

@[simp] theorem retryFlipped_acc (s : State) : (s.retryFlipped).acc = s.acc := rfl
@[simp] theorem retryFlipped_prev (s : State) : (s.retryFlipped).prev = s.prev := rfl
@[simp] theorem retryFlipped_dir (s : State) : (s.retryFlipped).dir = flipDir s.dir := rfl
@[simp] theorem retryFlipped_lastReg (s : State) : (s.retryFlipped).lastReg = s.lastReg := rfl
@[simp] theorem retryFlipped_retry (s : State) : (s.retryFlipped).retry = s.retry + 1 := rfl
@[simp] theorem retryFlipped_hold (s : State) : (s.retryFlipped).hold = s.hold := rfl
@[simp] theorem retryFlipped_run (s : State) : (s.retryFlipped).run = s.run := rfl
@[simp] theorem retryFlipped_cause (s : State) : (s.retryFlipped).cause = s.cause := rfl
@[simp] theorem retryFlipped_out (s : State) : (s.retryFlipped).out = s.out := rfl
@[simp] theorem retryFlipped_cfg (s : State) : (s.retryFlipped).cfg = s.cfg := rfl
@[simp] theorem retryFlipped_port (s : State) : (s.retryFlipped).port = s.port := rfl

/-! ### `receive` -/

@[simp] theorem receive_acc (b : Byte) (s : State) : (receive b s).acc = s.acc ++ [b] := rfl
@[simp] theorem receive_prev (b : Byte) (s : State) : (receive b s).prev = s.prev := rfl
@[simp] theorem receive_dir (b : Byte) (s : State) : (receive b s).dir = s.dir := rfl
@[simp] theorem receive_lastReg (b : Byte) (s : State) : (receive b s).lastReg = s.lastReg := rfl
@[simp] theorem receive_retry (b : Byte) (s : State) : (receive b s).retry = s.retry := rfl
@[simp] theorem receive_hold (b : Byte) (s : State) : (receive b s).hold = false := rfl
@[simp] theorem receive_run (b : Byte) (s : State) : (receive b s).run = s.run := rfl
@[simp] theorem receive_cause (b : Byte) (s : State) : (receive b s).cause = s.cause := rfl
@[simp] theorem receive_out (b : Byte) (s : State) : (receive b s).out = s.out := rfl
@[simp] theorem receive_cfg (b : Byte) (s : State) : (receive b s).cfg = s.cfg := rfl
@[simp] theorem receive_port (b : Byte) (s : State) : (receive b s).port = s.port := rfl

/-! ### `accept` -/

@[simp] theorem accept_acc (e : Nat) (s : State) : (accept e s).acc = s.acc := rfl
@[simp] theorem accept_prev (e : Nat) (s : State) :
    (accept e s).prev = if crcChk (Memory.read s.acc 0 e) then Memory.read s.acc 0 e else s.prev := rfl
@[simp] theorem accept_dir (e : Nat) (s : State) : (accept e s).dir = s.dir := rfl
@[simp] theorem accept_lastReg (e : Nat) (s : State) : (accept e s).lastReg = s.lastReg := rfl
@[simp] theorem accept_retry (e : Nat) (s : State) : (accept e s).retry = s.retry := rfl
@[simp] theorem accept_hold (e : Nat) (s : State) : (accept e s).hold = s.hold := rfl
@[simp] theorem accept_run (e : Nat) (s : State) : (accept e s).run = s.run := rfl
@[simp] theorem accept_cause (e : Nat) (s : State) : (accept e s).cause = s.cause := rfl
@[simp] theorem accept_out (e : Nat) (s : State) :
    (accept e s).out = s.out ++ acceptRecords s.cfg.ignoreCrc (Memory.read s.acc 0 e) := rfl
@[simp] theorem accept_cfg (e : Nat) (s : State) : (accept e s).cfg = s.cfg := rfl
@[simp] theorem accept_port (e : Nat) (s : State) : (accept e s).port = s.port := rfl

/-! ### `settle`: the arms, and the fields no arm writes -/

theorem settle_needsMoreBytes (n : Nat) (s : State) :
    settle (.needsMoreBytes n) s = { s with hold := true, retry := 0 } := rfl
theorem settle_done (s : State) :
    settle .done s = { accept s.size s with acc := [], retry := 0 } := rfl
theorem settle_hasTrailingBytes (n : Nat) (s : State) :
    settle (.hasTrailingBytes n) s =
      { accept (s.size - n) s with
        acc := Memory.compact s.acc (s.size - n) n, retry := 0 } := rfl
theorem settle_directionWrong (s : State) :
    settle .directionWrong s = { accept s.size s with acc := [], retry := 0 } := rfl

@[simp] theorem settle_dir (o : FrameOutcome) (s : State) : (settle o s).dir = s.dir := by
  cases o <;> rfl
@[simp] theorem settle_lastReg (o : FrameOutcome) (s : State) : (settle o s).lastReg = s.lastReg := by
  cases o <;> rfl
@[simp] theorem settle_run (o : FrameOutcome) (s : State) : (settle o s).run = s.run := by
  cases o <;> rfl
@[simp] theorem settle_cause (o : FrameOutcome) (s : State) : (settle o s).cause = s.cause := by
  cases o <;> rfl
@[simp] theorem settle_cfg (o : FrameOutcome) (s : State) : (settle o s).cfg = s.cfg := by
  cases o <;> rfl
@[simp] theorem settle_port (o : FrameOutcome) (s : State) : (settle o s).port = s.port := by
  cases o <;> rfl
@[simp] theorem settle_retry (o : FrameOutcome) (s : State) : (settle o s).retry = 0 := by
  cases o <;> rfl

end Sys2Proof.Machine
end

