-- ==== Sys2Proof/Laws/Frames.lean ====
section
/-!
SUPPORT. Everything the decoder can do, said once: the inversion lemmas of `DECODE_REQ`, `DECODE_RSP` and
`DECODE`.
-/

namespace Sys2Proof.Machine

/-- Completion (R140). -/
theorem completion_cases (len frameLen : Nat) :
    (len = frameLen ∧ completion len frameLen = .done) ∨
    (len ≠ frameLen ∧ completion len frameLen = .hasTrailingBytes (len - frameLen)) := by
  unfold completion
  split
  · exact .inl ⟨‹_›, rfl⟩
  · exact .inr ⟨‹_›, rfl⟩

/-- A fingerprint match needs the literals to fit (R139). -/
theorem size_of_fpMatch {s : State} (h : fpMatch s = true) : 15 ≤ s.size := by
  simp only [fpMatch, Bool.and_eq_true, decide_eq_true_eq] at h
  exact h.2.1

/-- The bug-tolerance rule needs 15 bytes (R137). -/
theorem size_of_bugTolerance {s : State} (h : bugTolerance s = true) : 15 ≤ s.size := by
  simp only [bugTolerance, Bool.and_eq_true] at h
  exact size_of_fpMatch h.2

/-- Everything `DECODE_REQ` can do (R132). -/
theorem decodeReq_cases (f : ReqFrame) (s : State) :
    (s.size < 8 ∧ decodeReq f s = (.needsMoreBytes (8 - s.size), s)) ∨
    (8 ≤ s.size ∧ decodeReq f s =
      (completion s.size 8,
        { s with lastReg := f.startRegister, out := s.out ++ countWarning s.cfg f,
                 dir := .expectResponse })) := by
  unfold decodeReq
  split
  · exact .inl ⟨‹_›, rfl⟩
  · exact .inr ⟨Nat.le_of_not_lt ‹_›, rfl⟩

/-- Everything `DECODE_RSP` can do (R135, R137). -/
theorem decodeRsp_cases (h : RspHeader) (s : State) :
    (h.byteCount = 0 ∧ decodeRsp h s = (.directionWrong, s)) ∨
    (h.byteCount ≠ 0 ∧ s.size < h.byteCount.toNat + 5 ∧ bugTolerance s = false ∧
      decodeRsp h s = (.needsMoreBytes (h.byteCount.toNat + 5 - s.size), s)) ∨
    (h.byteCount ≠ 0 ∧ s.size < h.byteCount.toNat + 5 ∧ bugTolerance s = true ∧
      decodeRsp h s = (.done, { s with dir := .expectRequest })) ∨
    (h.byteCount ≠ 0 ∧ h.byteCount.toNat + 5 ≤ s.size ∧
      decodeRsp h s =
        (completion s.size (h.byteCount.toNat + 5), { s with dir := .expectRequest })) := by
  by_cases h0 : h.byteCount = 0
  · exact .inl ⟨h0, by simp [decodeRsp, h0]⟩
  · by_cases hlt : s.size < h.byteCount.toNat + 5
    · cases hb : bugTolerance s with
      | false => exact .inr (.inl ⟨h0, hlt, rfl, by
        rw [decodeRsp, if_neg h0]; simp [effectiveByteCount, hlt, hb, rspOverhead]⟩)
      | true =>
        have := size_of_bugTolerance hb
        have hs : s.acc.length - 5 + 5 = s.acc.length := by
          simp only [State.size] at this
          omega
        exact .inr (.inr (.inl ⟨h0, hlt, rfl, by
          rw [decodeRsp, if_neg h0]
          simp [effectiveByteCount, hlt, hb, rspOverhead, completion, hs]⟩))
    · exact .inr (.inr (.inr ⟨h0, Nat.le_of_not_lt hlt, by
        rw [decodeRsp, if_neg h0]
        simp [effectiveByteCount, hlt, rspOverhead]⟩))

/-- The decoder on a request candidate: short, or the request at its front (R132, R133). -/
theorem decodeCandidate_expectRequest {s : State} (hd : s.dir = .expectRequest) :
    (s.size < 8 ∧ decodeCandidate s = (.needsMoreBytes (8 - s.size), s)) ∨
    ∃ f, parseReq s.acc = some f ∧ 8 ≤ s.size ∧ decodeCandidate s =
      (completion s.size 8,
        { s with lastReg := f.startRegister, out := s.out ++ countWarning s.cfg f,
                 dir := .expectResponse }) := by
  unfold decodeCandidate
  rw [hd]
  cases hp : parseReq s.acc with
  | none => exact .inl ⟨(parseReq_eq_none_iff _).mp hp, rfl⟩
  | some f =>
    have hlen : 8 ≤ s.size := by
      by_contra hlt
      rw [(parseReq_eq_none_iff _).mpr (Nat.lt_of_not_le hlt)] at hp
      exact nomatch hp
    obtain ⟨hlt, -⟩ | ⟨-, he⟩ := decodeReq_cases f s
    · omega
    · exact .inr ⟨f, rfl, hlen, he⟩

/-- The decoder on a response candidate: short, or the header at its front (R135, R136). -/
theorem decodeCandidate_expectResponse {s : State} (hd : s.dir = .expectResponse) :
    (s.size < 3 ∧ decodeCandidate s = (.needsMoreBytes (3 - s.size), s)) ∨
    ∃ h, parseRsp s.acc = some h ∧ 3 ≤ s.size ∧ decodeCandidate s = decodeRsp h s := by
  unfold decodeCandidate
  rw [hd]
  cases hp : parseRsp s.acc with
  | none => exact .inl ⟨(parseRsp_eq_none_iff _).mp hp, rfl⟩
  | some h =>
    refine .inr ⟨h, rfl, ?_, rfl⟩
    by_contra hlt
    rw [(parseRsp_eq_none_iff _).mpr (Nat.lt_of_not_le hlt)] at hp
    exact nomatch hp

/-- Everything the decoder can do: it returns `NeedsMoreBytes` or `DirectionWrong` and writes nothing, or
it completes, with `n` bytes left after a frame of `size − n ≥ 6` bytes. -/
theorem decodeCandidate_cases (s : State) :
    (∃ n, 1 ≤ n ∧ s.size < 260 ∧ decodeCandidate s = (.needsMoreBytes n, s)) ∨
    (s.dir = .expectResponse ∧ 3 ≤ s.size ∧ decodeCandidate s = (.directionWrong, s)) ∨
    (∃ o t, decodeCandidate s = (o, t) ∧
      ((o = .done ∧ 6 ≤ s.size) ∨ ∃ n, o = .hasTrailingBytes n ∧ 1 ≤ n ∧ n + 6 ≤ s.size) ∧
      t = { s with lastReg := t.lastReg, out := t.out, dir := flipDir s.dir }) := by
  cases hd : s.dir with
  | expectRequest =>
    obtain ⟨hlt, he⟩ | ⟨f, -, hle, he⟩ := decodeCandidate_expectRequest hd
    · exact .inl ⟨_, by omega, by omega, he⟩
    · refine .inr (.inr ⟨_, _, he, ?_, rfl⟩)
      obtain ⟨hl, hc⟩ | ⟨hl, hc⟩ := completion_cases s.size 8
      · exact .inl ⟨hc, by omega⟩
      · exact .inr ⟨_, hc, by omega, by omega⟩
  | expectResponse =>
    obtain ⟨hlt, he⟩ | ⟨h, -, hle, he⟩ := decodeCandidate_expectResponse hd
    · exact .inl ⟨_, by omega, by omega, he⟩
    · have hb := h.byteCount.isLt
      rw [he]
      obtain ⟨-, hr⟩ | ⟨-, hlt, -, hr⟩ | ⟨-, -, hbug, hr⟩ | ⟨h0, hge, hr⟩ := decodeRsp_cases h s
      · exact .inr (.inl ⟨rfl, hle, hr⟩)
      · exact .inl ⟨_, by omega, by omega, hr⟩
      · have := size_of_bugTolerance hbug
        exact .inr (.inr ⟨_, _, hr, .inl ⟨rfl, by omega⟩, rfl⟩)
      · have hpos : 0 < h.byteCount.toNat := by
          rcases Nat.eq_zero_or_pos h.byteCount.toNat with hz | hz
          · exact absurd (BitVec.eq_of_toNat_eq hz) h0
          · exact hz
        refine .inr (.inr ⟨_, _, hr, ?_, rfl⟩)
        obtain ⟨hl, hc⟩ | ⟨hl, hc⟩ := completion_cases s.size (h.byteCount.toNat + 5)
        · exact .inl ⟨hc, by omega⟩
        · exact .inr ⟨_, hc, by omega, by omega⟩

/-- A decode under `ExpectRequest` is never `DirectionWrong` (R131). -/
theorem decodeCandidate_ne_directionWrong {s : State} (hd : s.dir = .expectRequest) :
    (decodeCandidate s).1 ≠ .directionWrong := by
  obtain ⟨n, -, -, he⟩ | ⟨hr, -⟩ | ⟨o, t, he, ho, -⟩ := decodeCandidate_cases s
  · rw [he]; exact FrameOutcome.noConfusion
  · rw [hd] at hr; exact Dir.noConfusion hr
  · rw [he]
    obtain ⟨rfl, -⟩ | ⟨n, rfl, -⟩ := ho <;> exact FrameOutcome.noConfusion

end Sys2Proof.Machine
end

