-- ==== Sys2Proof/Laws/Controller.lean ====
section
/-!
SUPPORT. Everything `SERVICE` can do, said once.
-/

namespace Sys2Proof.Machine

/-- An outcome other than `DirectionWrong` is settled at once (R151 to R153). -/
theorem service_of_ne_directionWrong {s : State} (h : (decodeCandidate s).1 ≠ .directionWrong) :
    service s = settle (decodeCandidate s).1 (decodeCandidate s).2 := by
  unfold service
  cases s.retriesLeft with
  | zero => rfl
  | succ n =>
    rw [serviceLoop]
    split
    · rename_i t he
      exact absurd (congrArg Prod.fst he) h
    · rename_i o t ho he
      rw [he]

/-- A `DirectionWrong` with a retry left is retried (R154). -/
theorem service_of_directionWrong {s t : State} (h : decodeCandidate s = (.directionWrong, t))
    (hr : s.retry.val < 4) (ht : t.retry = s.retry) : service s = service t.retryFlipped := by
  have hleft : s.retriesLeft = t.retryFlipped.retriesLeft + 1 := by
    simp only [State.retriesLeft, retryFlipped_retry, ht, retryMax]
    have : (s.retry + 1).val = s.retry.val + 1 := by
      rw [Fin.val_add]
      simp
      omega
    omega
  rw [service, hleft, serviceLoop, h]
  rfl

/-- A `DirectionWrong` with the retries exhausted is settled (R155). -/
theorem service_of_exhausted {s t : State} (h : decodeCandidate s = (.directionWrong, t))
    (hr : s.retry.val = 4) : service s = settle .directionWrong t := by
  have hleft : s.retriesLeft = 0 := by simp [State.retriesLeft, retryMax, hr]
  rw [service, hleft, serviceLoop, h]

/-- Everything `SERVICE` can do (R150 with R154): settle the outcome of the first decode; or, when that is
`DirectionWrong`, settle the outcome of a second decode under `ExpectRequest`; or, with the retries
exhausted, settle `DirectionWrong` itself. -/
theorem service_cases (s : State) :
    ((decodeCandidate s).1 ≠ .directionWrong ∧
      service s = settle (decodeCandidate s).1 (decodeCandidate s).2) ∨
    (s.dir = .expectResponse ∧ decodeCandidate s = (.directionWrong, s) ∧ s.retry.val < 4 ∧
      (decodeCandidate s.retryFlipped).1 ≠ .directionWrong ∧
      service s =
        settle (decodeCandidate s.retryFlipped).1 (decodeCandidate s.retryFlipped).2) ∨
    (s.dir = .expectResponse ∧ decodeCandidate s = (.directionWrong, s) ∧ s.retry.val = 4 ∧
      service s = settle .directionWrong s) := by
  by_cases hw : (decodeCandidate s).1 = .directionWrong
  · obtain ⟨n, -, -, he⟩ | ⟨hd, -, he⟩ | ⟨o, t, he, ho, -⟩ := decodeCandidate_cases s
    · rw [he] at hw; exact FrameOutcome.noConfusion hw
    · have hlt := s.retry.isLt
      by_cases hr : s.retry.val < 4
      · have hne : (decodeCandidate s.retryFlipped).1 ≠ .directionWrong :=
          decodeCandidate_ne_directionWrong (by rw [retryFlipped_dir, hd]; rfl)
        refine .inr (.inl ⟨hd, he, hr, hne, ?_⟩)
        rw [service_of_directionWrong he hr rfl, service_of_ne_directionWrong hne]
      · have hr4 : s.retry.val = 4 := by omega
        exact .inr (.inr ⟨hd, he, hr4, service_of_exhausted he hr4⟩)
    · rw [he] at hw
      obtain ⟨rfl, -⟩ | ⟨n, rfl, -⟩ := ho <;> exact FrameOutcome.noConfusion hw
  · exact .inl ⟨hw, service_of_ne_directionWrong hw⟩
end Sys2Proof.Machine
end

