-- ==== Sys2Proof/Laws/Crc.lean ====
section
/-!
SUPPORT. The CRC step is linear over exclusive-or and injective; what `CRCCHK` answers.
-/

namespace Sys2Proof.Machine

/-- One step, as a shift and an exclusive-or. -/
theorem crcShift_eq (x : Half) :
    crcShift x = (x >>> 1) ^^^ (if x.getLsbD 0 = true then crcPoly else 0) := by
  unfold crcShift
  split <;> simp

/-- One step is linear over exclusive-or. -/
theorem crcShift_xor (x y : Half) : crcShift (x ^^^ y) = crcShift x ^^^ crcShift y := by
  rw [crcShift_eq, crcShift_eq, crcShift_eq, BitVec.ushiftRight_xor_distrib, BitVec.getLsbD_xor]
  generalize x >>> 1 = a
  generalize y >>> 1 = b
  cases x.getLsbD 0 <;> cases y.getLsbD 0 <;>
    ext i <;> simp <;> cases a[i] <;> cases b[i] <;> cases crcPoly[i] <;> rfl

/-- Steps are linear over exclusive-or (the reason R91 gives for the table form). -/
theorem crcShifts_xor (n : Nat) (x y : Half) :
    crcShifts n (x ^^^ y) = crcShifts n x ^^^ crcShifts n y := by
  induction n generalizing x y with
  | zero => rfl
  | succ n ih => simp only [crcShifts, crcShift_xor, ih]

/-- The polynomial has bit 15, so a step takes only 0 to 0. -/
theorem crcShift_eq_zero {x : Half} (h : crcShift x = 0) : x = 0 := by
  rw [crcShift_eq] at h
  cases h0 : x.getLsbD 0 with
  | true =>
    rw [h0] at h
    have top := congrArg (fun v : Half => v.getLsbD 15) h
    simp [crcPoly] at top
  | false =>
    rw [h0] at h
    ext i hi
    match i, hi with
    | 0, _ => simpa using h0
    | i + 1, hi =>
      have bit := congrArg (fun v : Half => v.getLsbD i) h
      have : x.getLsbD (i + 1) = false := by simpa [Nat.add_comm] using bit
      simpa [BitVec.getLsbD_eq_getElem hi] using this

theorem crcShifts_eq_zero {n : Nat} {x : Half} (h : crcShifts n x = 0) : x = 0 := by
  induction n generalizing x with
  | zero => exact h
  | succ n ih => exact crcShift_eq_zero (ih h)

/-- Steps lose no information. -/
theorem crcShifts_injective {n : Nat} {x y : Half} (h : crcShifts n x = crcShifts n y) : x = y := by
  rw [← BitVec.xor_eq_zero_iff] at h ⊢
  exact crcShifts_eq_zero (n := n) (by rw [crcShifts_xor]; exact h)

/-- Eight steps move the high byte of a value with low byte 0 to the low byte. -/
theorem crcShifts_high (b : Byte) : crcShifts 8 (b ++ (0 : Byte)) = b.setWidth 16 := by
  revert b
  decide +kernel

/-- A u16 is its high byte and its low byte. -/
theorem half_split (v : Half) : v = (hi8 v ++ (0 : Byte)) ^^^ (lo8 v).setWidth 16 := by
  ext i hi
  simp [hi8, lo8]
  grind


/-- One byte of `CRC16`, by the table entry of the low byte. -/
theorem crcByte_eq (crc : Half) (b : Byte) :
    crcByte crc b = (hi8 crc).setWidth 16 ^^^ tblEntry (lo8 crc ^^^ b) := by
  have h : crc ^^^ b.setWidth 16 = (hi8 crc ++ (0 : Byte)) ^^^ (lo8 crc ^^^ b).setWidth 16 := by
    rw [BitVec.setWidth_xor, ← BitVec.xor_assoc, ← half_split]
  rw [crcByte, h, crcShifts_xor, crcShifts_high, tblEntry]

theorem crcByte_injective_state {b : Byte} {x y : Half} (h : crcByte x b = crcByte y b) : x = y := by
  have := crcShifts_injective h
  exact (BitVec.xor_left_inj _).mp this

theorem crcByte_injective_byte {x : Half} {a b : Byte} (h : crcByte x a = crcByte x b) : a = b := by
  have h := (BitVec.xor_right_inj _).mp (crcShifts_injective h)
  have := congrArg (BitVec.setWidth 8) h
  simpa using this

theorem foldl_crcByte_injective {bytes : List Byte} {x y : Half}
    (h : bytes.foldl crcByte x = bytes.foldl crcByte y) : x = y := by
  induction bytes generalizing x y with
  | nil => exact h
  | cons b bytes ih => exact crcByte_injective_state (ih h)

/-- Feeding a running CRC its own two bytes, low byte first, leaves 0. -/
theorem crcByte_trailer_zero (crc : Half) :
    crcByte (crcByte crc (lo8 crc)) (hi8 crc) = 0 := by
  have h0 : tblEntry 0 = 0 := by decide
  rw [crcByte_eq crc]
  simp only [BitVec.xor_self]
  have : (0#8 : Byte) = 0 := rfl
  rw [this, h0]
  simp only [BitVec.xor_zero, BitVec.ofNat_eq_ofNat, crcByte, BitVec.xor_self]
  decide

/-- The running value after `m ++ n` continues the one after `m` (R95 item 2). -/
theorem crc16_append (m n : List Byte) : crc16 (m ++ n) = n.foldl crcByte (crc16 m) := by
  simp [crc16]

theorem crcChk_append_two (m : List Byte) (lo hi : Byte) :
    crcChk (m ++ [lo, hi]) = (crc16 m == le16 lo hi) := by
  simp [crcChk]

theorem crcChk_of_length_lt_two {f : List Byte} (h : f.length < 2) : crcChk f = false := by
  match f, h with
  | [], _ => rfl
  | [_], _ => rfl

theorem two_le_of_crcChk {f : List Byte} (h : crcChk f = true) : 2 ≤ f.length := by
  by_contra hlt
  rw [crcChk_of_length_lt_two (by omega)] at h
  exact Bool.noConfusion h

end Sys2Proof.Machine
end

