-- ==== Sys2Proof/Laws/Events.lean ====
section
/-!
SUPPORT. Everything an instruction and a step can do, said once: the inversion lemmas of `whenRunning`,
`exec` and `step`.
-/

namespace Sys2Proof.Machine

theorem whenRunning_running {s : State} (h : s.run = .running) (k : Host.Outcome State Fault Refusal) :
    whenRunning s k = k := if_pos h

theorem whenRunning_halted {s : State} (h : s.run ≠ .running) (k : Host.Outcome State Fault Refusal) :
    whenRunning s k = .refused .eventWhileHalted := if_neg h

/-- A conditional event that answers a next state is consumed by a running core (R176). -/
theorem whenRunning_next {s t : State} {k : Host.Outcome State Fault Refusal}
    (h : whenRunning s k = .next t) : s.run = .running ∧ k = .next t := by
  unfold whenRunning at h
  split at h
  · exact ⟨‹_›, h⟩
  · exact nomatch h

theorem execGap_running {s : State} (h : s.run = .running) :
    execGap s = .next (if 0 < s.size ∧ s.hold = false then service s else s) :=
  whenRunning_running h _

theorem execRxb_running {s : State} (b : Byte) (h : s.run = .running) (hs : s.size < 300) :
    execRxb b s =
      .next (if (receive b s).size = 300 then service (receive b s) else receive b s) := by
  rw [execRxb, whenRunning_running h, if_pos (show s.size < cap from hs)]
  rfl

/-- What the next state of an instruction is. -/
def NextOf (i : Instr) (s t : State) : Prop :=
  match i with
  | .rst => t = resetRegisters s
  | .rxb b => s.run = .running ∧ s.size < 300 ∧
      ((s.size ≠ 299 ∧ t = receive b s) ∨ (s.size = 299 ∧ t = service (receive b s)))
  | .gap => s.run = .running ∧
      ((0 < s.size ∧ s.hold = false ∧ t = service s) ∨ (¬(0 < s.size ∧ s.hold = false) ∧ t = s))
  | .eof => s.run = .running ∧ t = haltClean s
  | .serr => s.run = .running ∧ t = raiseFatal .srcError s
  | .kerr => s.run = .running ∧ t = raiseFatal .sinkError s
  | .req f => t = (decodeReq f s).2
  | .rsp h => t = (decodeRsp h s).2

/-- Everything an instruction can do when it answers a next state. -/
theorem exec_next {i : Instr} {s t : State} (h : exec i s = .next t) : NextOf i s t := by
  cases i with
  | rst => exact (Host.Outcome.next.inj h).symm
  | rxb b =>
    obtain ⟨hr, h⟩ := whenRunning_next (show execRxb b s = .next t from h)
    split at h
    · rename_i hs
      have hlen : (receive b s).size = s.size + 1 := by simp [State.size]
      have h := (Host.Outcome.next.inj h).symm
      refine ⟨hr, hs, ?_⟩
      by_cases hf : s.size = 299
      · refine .inr ⟨hf, ?_⟩
        rw [if_pos (show (receive b s).size = cap by rw [hlen, hf]; rfl)] at h
        exact h
      · refine .inl ⟨hf, ?_⟩
        rw [if_neg (show ¬(receive b s).size = cap by rw [hlen]; unfold cap; omega)] at h
        exact h
    · exact nomatch h
  | gap =>
    obtain ⟨hr, h⟩ := whenRunning_next (show execGap s = .next t from h)
    have h := (Host.Outcome.next.inj h).symm
    refine ⟨hr, ?_⟩
    split at h
    · rename_i hp; exact .inl ⟨hp.1, hp.2, h⟩
    · rename_i hp; exact .inr ⟨hp, h⟩
  | eof =>
    obtain ⟨hr, h⟩ := whenRunning_next (show execEof s = .next t from h)
    exact ⟨hr, (Host.Outcome.next.inj h).symm⟩
  | serr =>
    obtain ⟨hr, h⟩ := whenRunning_next (show execSerr s = .next t from h)
    exact ⟨hr, (Host.Outcome.next.inj h).symm⟩
  | kerr =>
    obtain ⟨hr, h⟩ := whenRunning_next (show execKerr s = .next t from h)
    exact ⟨hr, (Host.Outcome.next.inj h).symm⟩
  | req f => exact (Host.Outcome.next.inj h).symm
  | rsp r => exact (Host.Outcome.next.inj h).symm

/-- Everything a step can do when it answers a next state: idle, or run the decoded event in the state in
which its word has been consumed. -/
theorem step_next {s t : State} (h : step s = .next t) :
    (s.port = [] ∧ t = s) ∨
    ∃ w rest i, s.port = w :: rest ∧ decodeEvent w = .ok i ∧
      exec i { s with port := rest } = .next t := by
  unfold step fetchEvent at h
  cases hp : s.port with
  | nil =>
    rw [hp] at h
    exact .inl ⟨rfl, (Host.Outcome.next.inj h).symm⟩
  | cons w rest =>
    rw [hp] at h
    cases hd : decodeEvent w with
    | ok i =>
      refine .inr ⟨w, rest, i, rfl, hd, ?_⟩
      simpa only [hd] using h
    | error e => simp only [hd] at h; exact nomatch h

/-- An event word is never a frame (R11). -/
theorem decodeEvent_event {w : EventWord} {i : Instr} (h : decodeEvent w = .ok i) :
    (∀ f, i ≠ .req f) ∧ ∀ r, i ≠ .rsp r := by
  unfold decodeEvent at h
  split at h <;> cases h <;> exact ⟨fun _ => nofun, fun _ => nofun⟩

end Sys2Proof.Machine
end

