-- ==== Sys2Proof/Laws/Memory.lean ====
section
/-!
SUPPORT. Every memory operation keeps a memory within its capacity, and reset memory is within it; what
each operation does to one byte.
-/

namespace Sys2Proof.Machine

theorem Memory.wf_iff (m : Memory) : Memory.wf m = true ↔ m.length ≤ 300 := by
  unfold Memory.wf cap
  exact decide_eq_true_iff

theorem append_wf {m : Memory} (b : Byte) (h : m.length < cap) :
    Memory.wf (Memory.append m b) = true := by
  simp only [Memory.wf_iff, Memory.append, List.length_append, List.length_singleton]
  exact h

theorem read_length_le (m : Memory) (i n : Nat) : (Memory.read m i n).length ≤ m.length := by
  simp [Memory.read]

theorem read_wf {m : Memory} (i n : Nat) (h : Memory.wf m = true) :
    Memory.wf (Memory.read m i n) = true := by
  rw [Memory.wf_iff] at h ⊢
  exact Nat.le_trans (read_length_le m i n) h

theorem compact_wf {m : Memory} (e n : Nat) (h : Memory.wf m = true) :
    Memory.wf (Memory.compact m e n) = true := read_wf e n h

theorem reset_acc_wf : Memory.wf State.reset.acc = true := by decide

theorem reset_prev_wf : Memory.wf State.reset.prev = true := by decide

theorem append_byte (m : Memory) (b : Byte) (a : Nat) :
    Memory.byte (Memory.append m b) a = if a = m.length then some b else Memory.byte m a := by
  unfold Memory.byte Memory.append
  grind

theorem read_byte (m : Memory) (i n a : Nat) :
    Memory.byte (Memory.read m i n) a = if a < n then Memory.byte m (i + a) else none := by
  simp [Memory.byte, Memory.read, List.getElem?_take]

/-- Compaction is the rest of the memory when the moved bytes are its last (R62). -/
theorem compact_eq_drop (m : Memory) (n : Nat) (h : n ≤ m.length) :
    Memory.compact m (m.length - n) n = m.drop (m.length - n) := by
  rw [Memory.compact, Memory.read, List.take_of_length_le]
  simp
  omega

end Sys2Proof.Machine
end

