-- ==== Sys2Proof/Laws/PerInstr.lean ====
section
/-!
SUPPORT. Statements made once per instruction. `EncodedWidth`: an instruction is encoded in as many bits as
its row of spec/opcode_table.json has.
-/

namespace Sys2Proof.Laws.EncodedWidth

/-- The bits of an encoded form. -/
def width : Encoding → Nat
  | .event _ => 11
  | .frame _ bytes => 8 * bytes.length

/-- The "width" of the instruction's row in spec/opcode_table.json. -/
def tableWidth : Instr → Nat
  | .rst => 11
  | .rxb _ => 11
  | .gap => 11
  | .eof => 11
  | .serr => 11
  | .kerr => 11
  | .req _ => 64
  | .rsp _ => 24

def Statement (i : Instr) : Prop := width (encode i) = tableWidth i

theorem rst : Statement .rst := rfl
theorem rxb (b : Byte) : Statement (.rxb b) := rfl
theorem gap : Statement .gap := rfl
theorem eof : Statement .eof := rfl
theorem serr : Statement .serr := rfl
theorem kerr : Statement .kerr := rfl
theorem req (f : ReqFrame) : Statement (.req f) := rfl
theorem rsp (h : RspHeader) : Statement (.rsp h) := rfl

end Sys2Proof.Laws.EncodedWidth
end

