-- ==== Sys2Proof/Tests/Slice0.lean ====
section
/-!
SUPPORT. Tests: words written out from spec 30_encoding.md, single steps from the vectors of spec
95_test_vectors.md (each theorem names its vector), and a witness for the hypotheses of every statement.
-/

namespace Sys2Proof.Machine.Tests

/-! ### Helpers -/

/-- Legal parameters, the OPEN ones at fixed values. -/
def cfg0 : Config :=
  { tGapUs := 1500, ignoreCrc := false, cmdMax := [], resetLastReg := 0x5A5A, exitFatal := 1 }

/-- An idle running core. -/
def base : State :=
  { acc := [], prev := [], dir := .expectRequest, lastReg := 0x7777, retry := 0, hold := false
    run := .running, cause := .none, out := [], cfg := cfg0, port := [] }

/-- A running core with pending bytes. -/
def cand (dir : Dir) (bytes : List Byte) : State := { base with dir := dir, acc := bytes }

/-- The request of V1. -/
def req1 : List Byte := [0x01, 0x03, 0x00, 0x00, 0x00, 0x0A, 0xC5, 0xCD]

/-- The response of V57. -/
def rsp7 : List Byte := [0x01, 0x03, 0x02, 0x12, 0x34, 0xB5, 0x33]

/-- `P` of 95_test_vectors.md B6. -/
def frameP : List Byte := [0x01, 0x03, 0x20, 0x06, 0x00, 0x2C, 0xAF, 0xD6]

/-- `C15` of 95_test_vectors.md B6. -/
def frameC15 : List Byte :=
  [0x01, 0x03, 0x58, 0x45, 0x13, 0x80, 0x00, 0x45, 0x14, 0x00, 0x00, 0x45, 0x13, 0xA0, 0x50]

/-- The start state of a row of 95_test_vectors.md B6. -/
def fpCand (prev bytes : List Byte) : State := { cand .expectResponse bytes with prev := prev }

/-- The first 12 bytes of the response of V2. -/
def split12 : List Byte :=
  [0x01, 0x03, 0x14, 0x00, 0x01, 0x00, 0x02, 0x00, 0x03, 0x00, 0x04, 0x00]

/-- The held state of V32. -/
def held : State := { cand .expectResponse split12 with hold := true }

/-- The next state, if the outcome is one. -/
def nextOf (o : Host.Outcome State Fault Refusal) : Option State :=
  match o with
  | .next t => some t
  | _ => none

/-- The refusal, if the outcome is one. -/
def refusalOf (o : Host.Outcome State Fault Refusal) : Option Refusal :=
  match o with
  | .refused r => some r
  | _ => none

/-! ### Well-formedness: the one restriction of R78 -/

theorem test_wellFormed_refuses_zero_byteCount : Instr.wellFormed (.rsp ⟨0x01, 0x03, 0x00⟩) = false := by decide
theorem test_wellFormed_takes_byteCount_1_and_255 :
    Instr.wellFormed (.rsp ⟨0x01, 0x03, 0x01⟩) = true ∧ Instr.wellFormed (.rsp ⟨0x01, 0x03, 0xFF⟩) = true := by
  decide

/-! ### Decoding: words written out from R71, R75, R76, R81 -/

theorem test_decode_rst : decode (.event 0b000_00000000) = .ok .rst := by decide
theorem test_decode_rxb : decode (.event 0b001_11000101) = .ok (.rxb 0xC5) := by decide
theorem test_decode_gap : decode (.event 0b010_00000000) = .ok .gap := by decide
theorem test_decode_gap_ignores_data : decode (.event 0x2A5) = .ok .gap := by decide
theorem test_decode_eof : decode (.event 0b011_00000000) = .ok .eof := by decide
theorem test_decode_serr : decode (.event 0b100_00000000) = .ok .serr := by decide
theorem test_decode_kerr : decode (.event 0b101_00000000) = .ok .kerr := by decide
/-- V39. -/
theorem test_decode_reserved :
    decode (.event 0x600) = .error (.reservedKind 6) ∧ decode (.event 0x7FF) = .error (.reservedKind 7) := by
  decide
/-- The request of V1, with V1's start and count. -/
theorem test_decode_req :
    decode (.frame .expectRequest [0x01, 0x03, 0x00, 0x00, 0x00, 0x0A, 0xC5, 0xCD]) =
      .ok (.req { slaveId := 0x01, functionCode := 0x03, startRegister := 0x0000
                  registerCount := 10, crc := 0xCDC5 }) := by decide
/-- The header of V2: 20 payload bytes. -/
theorem test_decode_rsp :
    decode (.frame .expectResponse [0x01, 0x03, 0x14, 0x00, 0x01]) =
      .ok (.rsp { slaveId := 0x01, functionCode := 0x03, byteCount := 20 }) := by decide
theorem test_decode_short_frames :
    decode (.frame .expectRequest [0x01, 0x03, 0x00]) = .error (.shortFrame 5) ∧
    decode (.frame .expectResponse [0x01]) = .error (.shortFrame 2) := by decide

theorem test_decodeTableWord_events :
    decodeTableWord 16 0x000 = some .rst ∧ decodeTableWord 16 0x1C5 = some (.rxb 0xC5) ∧
    decodeTableWord 16 0x200 = some .gap ∧ decodeTableWord 16 0x300 = some .eof ∧
    decodeTableWord 16 0x400 = some .serr ∧ decodeTableWord 16 0x500 = some .kerr ∧
    decodeTableWord 16 0x600 = none := by decide
/-- The bytes of V1 and the header of V2, the first byte in the low bits. -/
theorem test_decodeTableWord_frames :
    decodeTableWord 64 0xCDC50A0000000301 =
      some (.req { slaveId := 0x01, functionCode := 0x03, startRegister := 0x0000
                   registerCount := 10, crc := 0xCDC5 }) ∧
    decodeTableWord 24 0x140301 =
      some (.rsp { slaveId := 0x01, functionCode := 0x03, byteCount := 20 }) := by decide +kernel

theorem test_withFetchWord_runs_the_word :
    nextOf (step (base.withFetchWord 16 0x1C5)) = some { base with acc := [0xC5] } ∧
    (nextOf (step (base.withFetchWord 64 0xCDC50A0000000301))).map State.lastReg = some 0x0000 ∧
    (nextOf (step (base.withFetchWord 24 0x020301))).map State.dir = some .expectRequest := by decide +kernel

/-! ### The CRC engine: V10 to V29 -/

theorem test_crc16_V10_V14 :
    crc16 [] = 0xFFFF ∧ crc16 [0x00] = 0x40BF ∧ crc16 [0xFF] = 0x00FF ∧ crc16 [0x01] = 0x807E ∧
    crc16 [0x01, 0x03] = 0x2140 := by decide +kernel
theorem test_crc16_V15_V19c :
    crc16 [0x31, 0x32, 0x33, 0x34, 0x35, 0x36, 0x37, 0x38, 0x39] = 0x4B37 ∧
    crc16 [0x01, 0x03, 0x00, 0x01, 0x00, 0x01] = 0xCAD5 ∧ crc16 [0xFF, 0xFF] = 0x0000 ∧ crc16 req1 = 0x0000 ∧
    crc16 [0, 0, 0, 0, 0, 0] = 0x1B00 ∧ crc16 [0x80] = 0xE0BE ∧
    crc16 [0x11, 0x03, 0x00, 0x6B, 0x00, 0x03] = 0x8776 := by decide +kernel
/-- The table trace of V14. -/
theorem test_crc16Tbl_V14 :
    tbl[0xFE]? = some 0x8081 ∧ tbl[0x7D]? = some 0x21C0 ∧ crcByteTbl 0xFFFF 0x01 = 0x807E ∧
    crcByteTbl 0x807E 0x03 = 0x2140 := by decide +kernel
theorem test_crcChk_V20_V23 :
    crcChk [] = false ∧ crcChk [0xC5] = false ∧ crcChk [0xFF, 0xFF] = true ∧ crcChk [0x00, 0x00] = false := by
  decide +kernel
theorem test_crcChk_V24_V29 :
    crcChk req1 = true ∧ crcChk [0x01, 0x03, 0x00, 0x00, 0x00, 0x0A, 0xCD, 0xC5] = false ∧
    crcChk [0x01, 0x03, 0x00, 0x00, 0x00, 0x0A, 0xC5, 0xCC] = false ∧
    crcChk [0x01, 0x03, 0x00, 0x00, 0x00, 0x0B, 0xC5, 0xCD] = false ∧
    crcChk [0x00, 0xBF, 0x40] = true ∧ crcChk [0xBF, 0x40] = false := by decide +kernel

/-! ### One step each: V30 to V39b -/

/-- V38. -/
theorem test_rst_V38 :
    nextOf (step { cand .expectResponse [1, 2, 3, 4, 5] with
                   run := .haltFatal, cause := .sinkError, prev := frameP, port := [0x000] }) =
      some { base with lastReg := 0x5A5A } := by decide
/-- V30. -/
theorem test_rxb_V30 : nextOf (step { base with port := [0x101] }) = some { base with acc := [0x01] } := by decide
/-- V39a. -/
theorem test_rxb_V39a :
    nextOf (exec (.rxb 0x00) (cand .expectRequest (List.replicate 299 0))) =
      some { cand .expectResponse (List.replicate 292 0) with
             lastReg := 0, out := [.diag [0, 0, 0, 0, 0, 0, 0, 0] false] } := by decide +kernel
/-- V31, V32. -/
theorem test_gap_V31_V32 :
    nextOf (step { base with port := [0x200] }) = some base ∧
    nextOf (step { held with port := [0x200] }) = some held := by decide
/-- V5: the worked example of the retry. -/
theorem test_gap_V5 :
    nextOf (exec .gap (cand .expectResponse [0x01, 0x03, 0x00, 0x01, 0x00, 0x01, 0xD5, 0xCA])) =
      some { base with
             dir := .expectResponse, lastReg := 0x0001
             prev := [0x01, 0x03, 0x00, 0x01, 0x00, 0x01, 0xD5, 0xCA]
             out := [.emit [0x01, 0x03, 0x00, 0x01, 0x00, 0x01, 0xD5, 0xCA],
                     .diag [0x01, 0x03, 0x00, 0x01, 0x00, 0x01, 0xD5, 0xCA] true] } := by decide +kernel
/-- V34. -/
theorem test_eof_V34 :
    nextOf (step { cand .expectRequest req1 with port := [0x300] }) =
      some { cand .expectRequest req1 with run := .haltEof } ∧
    exitCode { cand .expectRequest req1 with run := .haltEof } = some 0 := by decide
/-- V35. -/
theorem test_serr_V35 :
    nextOf (step { held with port := [0x400] }) = some { held with run := .haltFatal, cause := .srcError } := by
  decide
/-- V36. -/
theorem test_kerr_V36 :
    nextOf (step { held with port := [0x500] }) = some { held with run := .haltFatal, cause := .sinkError } := by
  decide
/-- V37, V39. -/
theorem test_refusals_V37_V39 :
    refusalOf (step { base with run := .haltEof, port := [0x101] }) = some .eventWhileHalted ∧
    refusalOf (step { base with run := .haltFatal, port := [0x300] }) = some .eventWhileHalted ∧
    refusalOf (step { base with port := [0x7FF] }) = some (.reservedEvent 7) := by decide

/-! ### Frames: V44 to V63, V65 to V75 -/

/-- V44 and V45: 126 exceeds a limit of 125, 125 does not. -/
theorem test_req_V44_V45 :
    (decodeCandidate { cand .expectRequest [0x01, 0x03, 0x12, 0x34, 0x00, 0x7E, 0x00, 0x00] with
        cfg := { cfg0 with cmdMax := [(0x03, 125)] } }).2.out = [.warn .countExceedsMax 0x03 126 125] ∧
    (decodeCandidate { cand .expectRequest [0x01, 0x03, 0x12, 0x34, 0x00, 0x7D, 0x00, 0x00] with
        cfg := { cfg0 with cmdMax := [(0x03, 125)] } }).2.out = [] := by decide
/-- V44: `LASTREG` is big-endian; V46: no entry, no warning. -/
theorem test_req_V44_V46 :
    nextOf (exec (.req ⟨0x01, 0x04, 0x1234, 0xFFFF, 0⟩)
        { cand .expectRequest [0x01, 0x04, 0x12, 0x34, 0xFF, 0xFF, 0x00, 0x00] with
          cfg := { cfg0 with cmdMax := [(0x03, 125)] } }) =
      some { cand .expectResponse [0x01, 0x04, 0x12, 0x34, 0xFF, 0xFF, 0x00, 0x00] with
             cfg := { cfg0 with cmdMax := [(0x03, 125)] }, lastReg := 0x1234 } := by decide
/-- V52 to V59: the constant is 5, and a zero byte count is tested first. -/
theorem test_rsp_V52_V59 :
    (decodeCandidate (cand .expectResponse [0x01, 0x03, 0x00])).1 = .directionWrong ∧
    (decodeCandidate (cand .expectResponse [0x01, 0x03, 0x02])).1 = .needsMoreBytes 4 ∧
    (decodeCandidate (cand .expectResponse [0x01, 0x03, 0x02, 0x12, 0x34])).1 = .needsMoreBytes 2 ∧
    (decodeCandidate (cand .expectResponse rsp7)).1 = .done ∧
    (decodeCandidate (cand .expectResponse (rsp7 ++ [0x01, 0x03]))).1 = .hasTrailingBytes 2 ∧
    (decodeCandidate (cand .expectResponse [0x01, 0x03, 0x01, 0x12, 0x34, 0x56])).1 = .done := by decide +kernel
/-- V65, V67, V68, V70, V72, V75. -/
theorem test_rsp_fingerprint :
    (decodeCandidate (fpCand frameP frameC15)).1 = .done ∧
    (decodeCandidate (fpCand req1 frameC15)).1 = .needsMoreBytes 78 ∧
    (decodeCandidate (fpCand frameP (frameC15.take 14 ++ [0x00]))).1 = .needsMoreBytes 78 ∧
    (decodeCandidate (fpCand frameP (frameC15.take 13 ++ [0xAA, 0xD0, 0x07]))).1 = .done ∧
    (decodeCandidate (fpCand frameP (0x02 :: (frameC15.drop 1).take 12 ++ [0xA5, 0x93]))).1 = .done ∧
    (decodeCandidate (fpCand [0x03, 0x03, 0x20, 0x06, 0x00, 0x2C, 0xAE, 0x34]
      (0x03 :: (frameC15.drop 1).take 12 ++ [0xA7, 0x12]))).1 = .done := by decide +kernel

/-! ### The controller: V80 to V85 -/

/-- V80, V81: a CRC-invalid request, dropped or emitted by `IGNORE_CRC`, never saved. -/
theorem test_service_V80_V81 :
    service (cand .expectRequest [0x01, 0x03, 0x00, 0x10, 0x00, 0x02, 0x00, 0x00]) =
      { base with
        dir := .expectResponse, lastReg := 0x0010
        out := [.diag [0x01, 0x03, 0x00, 0x10, 0x00, 0x02, 0x00, 0x00] false] } ∧
    (service { cand .expectRequest [0x01, 0x03, 0x00, 0x10, 0x00, 0x02, 0x00, 0x00] with
        cfg := { cfg0 with ignoreCrc := true } }).out =
      [.emit [0x01, 0x03, 0x00, 0x10, 0x00, 0x02, 0x00, 0x00],
       .diag [0x01, 0x03, 0x00, 0x10, 0x00, 0x02, 0x00, 0x00] false] := by decide +kernel
/-- V82, V83. -/
theorem test_service_V82_V83 :
    service (cand .expectRequest (req1 ++ [0x01, 0x03, 0x14])) =
      { cand .expectResponse [0x01, 0x03, 0x14] with
        lastReg := 0, prev := req1, out := [.emit req1, .diag req1 true] } ∧
    service (cand .expectResponse [0x01, 0x03, 0x00, 0x00, 0x00]) =
      { cand .expectRequest [0x01, 0x03, 0x00, 0x00, 0x00] with hold := true } := by decide +kernel
/-- V84, V85: exhaustion. -/
theorem test_service_V84_V85 :
    service { cand .expectResponse req1 with retry := 4 } =
      { base with dir := .expectResponse, prev := req1, out := [.emit req1, .diag req1 true] } ∧
    service { cand .expectResponse [0x01, 0x03, 0x00] with retry := 4 } =
      { base with dir := .expectResponse, out := [.diag [0x01, 0x03, 0x00] false] } := by decide +kernel

/-! ### Witnesses: the hypotheses of each statement are met, clause by clause -/

theorem witness_EventWordsDecodeByMatchAndMask :
    (0x000 : EventWord) &&& 0x700 = 0x000 ∧ (0x0FF : EventWord) &&& 0x700 = 0x000 ∧
    (0x1FF : EventWord) &&& 0x700 = 0x100 ∧ (0x2FF : EventWord) &&& 0x700 = 0x200 ∧
    (0x3FF : EventWord) &&& 0x700 = 0x300 ∧ (0x4FF : EventWord) &&& 0x700 = 0x400 ∧
    (0x5FF : EventWord) &&& 0x700 = 0x500 ∧ (0x600 : EventWord) &&& 0x700 = 0x600 ∧
    (0x7FF : EventWord) &&& 0x700 = 0x700 := by decide

theorem witness_DataFieldIsOperandOfReceiveOnly :
    (0x200 : EventWord).extractLsb' 8 3 = (0x2FF : EventWord).extractLsb' 8 3 ∧
    (0x200 : EventWord).extractLsb' 8 3 ≠ 1 := by decide

theorem witness_RequestFieldsAreAssembledBigEndian :
    ([] : List Byte).length < 8 ∧ (req1.take 7).length < 8 := by decide

theorem witness_DecodeInvertsEncode :
    encode (.req ⟨0x01, 0x03, 0x0000, 0x000A, 0xCDC5⟩) = .frame .expectRequest req1 ∧
    encode (.rsp ⟨0x01, 0x03, 0x02⟩) = .frame .expectResponse [0x01, 0x03, 0x02] := by decide

theorem witness_EncodeInvertsDecode :
    decode (.event 0x1C5) = .ok (.rxb 0xC5) ∧ decode (.event 0x2A5) = .ok .gap ∧
    decode (.frame .expectResponse rsp7) = .ok (.rsp ⟨0x01, 0x03, 0x02⟩) := by decide

theorem witness_StepRunsTheDecodedEvent :
    ({ base with port := [0x101, 0x200] } : State).port = 0x101 :: [0x200] ∧
    decode (.event 0x101) = .ok (.rxb 0x01) := by decide

theorem witness_ReservedWordIsRefused :
    ({ base with port := [0x600] } : State).port = 0x600 :: [] ∧
    (0x600 : EventWord).extractLsb' 8 3 = 6 ∧ (0x7FF : EventWord).extractLsb' 8 3 = 7 := by decide

/-- A request, and a response header that is retried, with no retry and with three retries behind it. -/
theorem witness_GapStepRunsTheFrameAtTheFront :
    decode (.event 0x200) = .ok .gap ∧
    (∃ s : State, s.port = 0x200 :: [] ∧ s.run = .running ∧ 0 < s.size ∧ s.hold = false ∧
      decode (.frame s.dir s.acc) = .ok (.req ⟨0x01, 0x03, 0x0000, 0x000A, 0xCDC5⟩) ∧
      (decodeCandidate { s with port := [] }).1 ≠ .directionWrong) ∧
    ∀ r ∈ ([0, 3] : List (Fin 5)), ∃ s : State,
      s.port = 0x200 :: [] ∧ s.run = .running ∧ 0 < s.size ∧ s.hold = false ∧
      decode (.frame s.dir s.acc) = .ok (.rsp ⟨0x01, 0x03, 0x00⟩) ∧
      (decodeCandidate { s with port := [] }).1 = .directionWrong ∧ s.retry = r ∧ s.retry.val < 4 := by
  refine ⟨by decide, ⟨{ cand .expectRequest req1 with port := [0x200] }, by decide⟩, fun r hr => ?_⟩
  refine ⟨{ cand .expectResponse req1 with port := [0x200], retry := r }, ?_⟩
  obtain rfl | rfl := List.mem_pair.mp hr <;> decide

theorem witness_PlacedWordIsRunByTheNextStep :
    encodingOfTableWord 16 0x1C5 = .event 0x1C5 ∧ decodeTableWord 16 0x1C5 = some (.rxb 0xC5) ∧
    encodingOfTableWord 24 0x010301 = .frame .expectResponse [0x01, 0x03, 0x01, 0x00, 0x00, 0x00] := by
  decide +kernel

theorem witness_StepConsumesOneEvent :
    base.port = [] ∧ step { held with port := [0x200] } = .next held := ⟨rfl, rfl⟩

theorem witness_ReceiveAppendsTheByte :
    (base.run = .running ∧ base.size < 300 ∧ base.size ≠ 299) ∧
    ((cand .expectRequest (List.replicate 298 0)).size < 300 ∧
      (cand .expectRequest (List.replicate 298 0)).size ≠ 299) ∧
    ((cand .expectRequest (List.replicate 299 0)).run = .running ∧
      (cand .expectRequest (List.replicate 299 0)).size = 299) ∧
    exec (.rxb 0x01) base = .next { base with acc := [0x01] } :=
  ⟨by decide, by decide +kernel, by decide +kernel, rfl⟩

theorem witness_ReceiveIntoFullAccumulatorIsRefused :
    ((cand .expectRequest (List.replicate 300 0)).run = .running ∧
      (cand .expectRequest (List.replicate 300 0)).size = 300) ∧
    (cand .expectRequest (List.replicate 299 0)).size ≤ 299 ∧
    exec .eof (cand .expectRequest (List.replicate 299 0)) =
      .next (haltClean (cand .expectRequest (List.replicate 299 0))) :=
  ⟨by decide +kernel, by decide +kernel, rfl⟩

theorem witness_GapServicesPendingBytes :
    (0 < (cand .expectRequest [0x01]).size ∧ (cand .expectRequest [0x01]).hold = false) ∧
    base.size = 0 ∧ held.hold = true ∧ held.run = .running := by decide

theorem held_justified : HoldJustified held := fun _ => ⟨by decide, 13, by decide +kernel⟩

theorem witness_HeldGapEqualsReinvokingTheDecoder :
    HoldJustified held ∧ held.retry = 0 ∧ held.hold = true := ⟨held_justified, rfl, rfl⟩

theorem witness_EndOfStreamHaltsCleanly : base.run = .running ∧ held.run = .running := by decide

theorem witness_FatalEventsRecordTheirCause : base.run = .running ∧ held.run = .running := by decide

theorem witness_HaltedCoreConsumesOnlyReset :
    (haltClean base).run ≠ .running ∧ (raiseFatal .srcError base).run ≠ .running := by decide

theorem witness_ExitCodeIsAFunctionOfRunStatus :
    base.run = .running ∧ (haltClean base).run = .haltEof ∧ (raiseFatal .sinkError base).run = .haltFatal ∧
    (raiseFatal .sinkError base).cfg.wf = true := by decide

theorem witness_CrcChkComparesTheTrailer :
    ([] : List Byte).length < 2 ∧ ([0xC5] : List Byte).length < 2 := by decide

theorem witness_CorrectTrailerDrivesCrcToZero : 2 ≤ ([0xFF, 0xFF] : List Byte).length := by decide

theorem witness_OneChangedByteIsDetected :
    (0x0A : Byte) ≠ 0x0B ∧ crcChk ([0x01, 0x03, 0x00, 0x00, 0x00] ++ 0x0A :: [0xC5, 0xCD]) = true := by
  decide +kernel

/-- A dictionary with two entries, and a function code without one (V46). -/
theorem witness_RequestWritesStartRegisterAndDirection :
    ({ cfg0 with cmdMax := [(0x03, 125), (0x06, 1)] } : Config).wf = true ∧
    ((0x06 : Byte), (1 : Half)) ∈ ({ cfg0 with cmdMax := [(0x03, 125), (0x06, 1)] } : Config).cmdMax ∧
    (∀ max : Half, ((0x04 : Byte), max) ∉ ({ cfg0 with cmdMax := [(0x03, 125), (0x06, 1)] } : Config).cmdMax) ∧
    (cand .expectRequest (req1.take 7)).size < 8 ∧ 8 ≤ (cand .expectRequest req1).size ∧
    8 ≤ (cand .expectRequest (List.replicate 299 0)).size :=
  ⟨by decide, by decide, fun _ => by simp, by decide, by decide, by decide +kernel⟩

theorem witness_ShortCandidateNeedsMoreBytes :
    ((cand .expectRequest []).dir = .expectRequest ∧ (cand .expectRequest (req1.take 7)).size < 8) ∧
    (cand .expectResponse []).dir = .expectResponse ∧ (cand .expectResponse (req1.take 2)).size < 3 := by decide

theorem witness_ResponseCompletesByItsByteCount :
    ((cand .expectResponse [0x01, 0x03]).dir = .expectResponse ∧ (cand .expectResponse [0x01, 0x03]).size < 3) ∧
    ((RspHeader.mk 0x01 0x03 0x00).byteCount.toNat = 0) ∧
    (1 ≤ (RspHeader.mk 0x01 0x03 0x01).byteCount.toNat ∧
      ((RspHeader.mk 0x01 0x03 0x01).byteCount.toNat : Int) ≤
        ((cand .expectResponse [0x01, 0x03, 0x01, 0, 0, 0]).size : Int) - 5) ∧
    (1 ≤ (RspHeader.mk 0x01 0x03 0xFF).byteCount.toNat ∧
      ((RspHeader.mk 0x01 0x03 0xFF).byteCount.toNat : Int) ≤
        ((cand .expectResponse (0x01 :: 0x03 :: 0xFF :: List.replicate 257 0)).size : Int) - 5) ∧
    (((fpCand frameP frameC15).size : Int) - 5 < ((RspHeader.mk 0x01 0x03 0x58).byteCount.toNat : Int) ∧
      crcChk (fpCand frameP frameC15).acc = true ∧ fpMatch (fpCand frameP frameC15) = true) ∧
    (((cand .expectResponse (rsp7.take 6)).size : Int) - 5 < ((RspHeader.mk 0x01 0x03 0x02).byteCount.toNat : Int) ∧
      ¬(crcChk (cand .expectResponse (rsp7.take 6)).acc = true ∧
        fpMatch (cand .expectResponse (rsp7.take 6)) = true)) := by decide +kernel

theorem witness_BugToleranceAcceptsTheWholeCandidate :
    (decode (.frame (fpCand frameP frameC15).dir (fpCand frameP frameC15).acc) = .ok (.rsp ⟨0x01, 0x03, 0x58⟩) ∧
      (fpCand frameP frameC15).dir = .expectResponse ∧
      ((fpCand frameP frameC15).size : Int) - 5 < ((0x58 : Byte).toNat : Int) ∧
      crcChk (fpCand frameP frameC15).acc = true ∧ fpMatch (fpCand frameP frameC15) = true) ∧
    ¬(crcChk (fpCand req1 frameC15).acc = true ∧ fpMatch (fpCand req1 frameC15) = true) := by decide +kernel

theorem witness_FingerprintComparesTheListedBytes :
    fpMatch (fpCand frameP frameC15) = true ∧ fpMatch (fpCand (frameP.take 7) frameC15) = false ∧
    fpMatch (fpCand frameP (frameC15.take 14)) = false := by decide +kernel

theorem witness_DecoderWritesOnlyItsRegisters :
    decode (.frame (cand .expectRequest req1).dir (cand .expectRequest req1).acc) =
      .ok (.req ⟨0x01, 0x03, 0x0000, 0x000A, 0xCDC5⟩) ∧
    decode (.frame (cand .expectResponse rsp7).dir (cand .expectResponse rsp7).acc) =
      .ok (.rsp ⟨0x01, 0x03, 0x02⟩) ∧
    decodeCandidate (cand .expectResponse rsp7) = (.done, cand .expectRequest rsp7) := by decide +kernel

theorem witness_OnlyZeroByteCountIsDirectionWrong :
    (decodeCandidate (cand .expectResponse [0x01, 0x03, 0x00])).1 = .directionWrong ∧
    (cand .expectResponse [0x01, 0x03, 0x00]).dir = .expectResponse ∧
    Memory.byte (cand .expectResponse [0x01, 0x03, 0x00]).acc 2 = some 0 := by decide

theorem witness_DirectionFlipsExactlyAtCompletion :
    decodeCandidate (cand .expectResponse rsp7) = (.done, cand .expectRequest rsp7) ∧
    decodeCandidate (cand .expectResponse (rsp7 ++ [0x01])) =
      (.hasTrailingBytes 1, cand .expectRequest (rsp7 ++ [0x01])) ∧
    (decodeCandidate (cand .expectRequest (req1 ++ [0x01]))).1 = .hasTrailingBytes 1 ∧
    decodeCandidate (cand .expectResponse [0x01, 0x03, 0xFF]) =
      (.needsMoreBytes 257, cand .expectResponse [0x01, 0x03, 0xFF]) ∧
    decodeCandidate (cand .expectResponse [0x01, 0x03, 0x00]) =
      (.directionWrong, cand .expectResponse [0x01, 0x03, 0x00]) := by decide +kernel

/-- V61, V63, V39a, the shortest response, and the extreme trailing counts. -/
theorem witness_OutcomesAreBounded :
    (decodeCandidate (cand .expectResponse [0x01, 0x03, 0xFF])).1 = .needsMoreBytes 257 ∧
    (decodeCandidate (cand .expectRequest (List.replicate 7 0))).1 = .needsMoreBytes 1 ∧
    (decodeCandidate (cand .expectResponse (0x01 :: 0x03 :: 0xFF :: List.replicate 297 0))).1 =
      .hasTrailingBytes 40 ∧
    (decodeCandidate (cand .expectResponse (0x01 :: 0x03 :: 0x01 :: List.replicate 297 0))).1 =
      .hasTrailingBytes 294 ∧
    (decodeCandidate (cand .expectRequest (List.replicate 300 0))).1 = .hasTrailingBytes 292 ∧
    (decodeCandidate (cand .expectResponse (0x01 :: 0x03 :: 0xFF :: List.replicate 257 0))).1 = .done ∧
    (cand .expectRequest (List.replicate 300 0)).size = 300 ∧
    (((fpCand frameP frameC15).size : Int) - 5 < ((0x58 : Byte).toNat : Int) ∧
      fpMatch (fpCand frameP frameC15) = true) ∧
    ((cand .expectRequest req1).acc = ({ cand .expectRequest req1 with lastReg := 0 } : State).acc) := by
  decide +kernel

theorem witness_AcceptSnapshotsAndReports :
    (8 ≤ (cand .expectRequest req1).size ∧ crcChk ((cand .expectRequest req1).acc.take 8) = true) ∧
    (1 ≤ (cand .expectRequest req1).size ∧ crcChk ((cand .expectRequest req1).acc.take 1) = false ∧
      (cand .expectRequest req1).cfg.ignoreCrc = false) ∧
    (crcChk (({ cand .expectRequest req1 with cfg := { cfg0 with ignoreCrc := true } } : State).acc.take 1) = false ∧
      ({ cand .expectRequest req1 with cfg := { cfg0 with ignoreCrc := true } } : State).cfg.ignoreCrc = true) := by
  decide +kernel

theorem witness_ServiceSettlesTheOutcome :
    decodeCandidate (cand .expectResponse [0x01, 0x03, 0xFF]) =
      (.needsMoreBytes 257, cand .expectResponse [0x01, 0x03, 0xFF]) ∧
    decodeCandidate (cand .expectResponse rsp7) = (.done, cand .expectRequest rsp7) ∧
    decodeCandidate (cand .expectResponse (rsp7 ++ [0x01])) =
      (.hasTrailingBytes 1, cand .expectRequest (rsp7 ++ [0x01])) := by decide +kernel

theorem witness_DirectionWrongIsRetriedOnce :
    ∀ r ∈ ([0, 3] : List (Fin 5)),
      decodeCandidate { cand .expectResponse req1 with retry := r } =
        (.directionWrong, { cand .expectResponse req1 with retry := r }) ∧ r.val < 4 := by decide

theorem witness_ExhaustedRetriesAcceptAndClear :
    decodeCandidate { cand .expectResponse req1 with retry := 4 } =
      (.directionWrong, { cand .expectResponse req1 with retry := 4 }) ∧ (4 : Fin 5).val = 4 := by decide

/-- One trailing byte and two, behind a valid frame and behind an invalid one. -/
theorem witness_CompactionAndSnapshotMoveBytes :
    (decodeCandidate (cand .expectResponse (rsp7 ++ [0x01])) =
        (.hasTrailingBytes 1, cand .expectRequest (rsp7 ++ [0x01])) ∧
      crcChk ((cand .expectResponse (rsp7 ++ [0x01])).acc.take 7) = true) ∧
    (decodeCandidate (cand .expectResponse [0x01, 0x03, 0x01, 0, 0, 0, 0xAA, 0xBB]) =
        (.hasTrailingBytes 2, cand .expectRequest [0x01, 0x03, 0x01, 0, 0, 0, 0xAA, 0xBB]) ∧
      crcChk ((cand .expectResponse [0x01, 0x03, 0x01, 0, 0, 0, 0xAA, 0xBB]).acc.take 6) = false) := by
  decide +kernel

theorem witness_ServiceAccountsForDirection :
    (cand .expectResponse rsp7).retry.val < 4 ∧ (decodeCandidate (cand .expectResponse rsp7)).1 = .done ∧
    (decodeCandidate (cand .expectResponse (rsp7 ++ [0x01]))).1 = .hasTrailingBytes 1 ∧
    (decodeCandidate held).1 = .needsMoreBytes 13 ∧
    ((decodeCandidate (cand .expectResponse [0x01, 0x03, 0x00])).1 = .directionWrong ∧
      (decodeCandidate (cand .expectResponse [0x01, 0x03, 0x00]).retryFlipped).1 = .needsMoreBytes 5) ∧
    ((decodeCandidate (cand .expectResponse req1)).1 = .directionWrong ∧
      (decodeCandidate (cand .expectResponse req1).retryFlipped).1 = .done) ∧
    (decodeCandidate (cand .expectResponse (req1 ++ [0x01])).retryFlipped).1 = .hasTrailingBytes 1 := by
  decide +kernel

/-- A `GAP` that accepts a frame: the case the statements about the trace and the saved frame are about. -/
theorem gap_accepts :
    exec .gap (cand .expectResponse rsp7) =
      .next { base with prev := rsp7, out := [.emit rsp7, .diag rsp7 true] } := by
  rw [show exec .gap (cand .expectResponse rsp7) = .next (service (cand .expectResponse rsp7)) from rfl]
  exact congrArg _ (by decide +kernel)

/-- A step that takes a frame, and one that receives a byte and takes none. -/
theorem witness_FrameIsEmittedExactlyIfCrcValid :
    Instr.gap ≠ .rst ∧
    exec .gap (cand .expectResponse rsp7) =
      .next { base with prev := rsp7, out := [.emit rsp7, .diag rsp7 true] } ∧
    Instr.rxb 0x01 ≠ .rst ∧ exec (.rxb 0x01) base = .next { base with acc := [0x01] } :=
  ⟨nofun, gap_accepts, nofun, rfl⟩

theorem witness_SavedFrameIsReplacedOnlyByValidFrames :
    Instr.gap ≠ .rst ∧
    exec .gap (cand .expectResponse rsp7) =
      .next { base with prev := rsp7, out := [.emit rsp7, .diag rsp7 true] } := ⟨nofun, gap_accepts⟩

theorem witness_GapTakesExactlyTheReportedFrame :
    exec .gap held = .next held ∧
    exec .gap (cand .expectResponse rsp7) =
      .next { base with prev := rsp7, out := [.emit rsp7, .diag rsp7 true] } := ⟨rfl, gap_accepts⟩

theorem witness_InvalidFrameIsDroppedButConsumed :
    (cand .expectResponse [0x01, 0x03, 0x01, 0, 0, 0]).run = .running ∧
    0 < (cand .expectResponse [0x01, 0x03, 0x01, 0, 0, 0]).size ∧
    (cand .expectResponse [0x01, 0x03, 0x01, 0, 0, 0]).hold = false ∧
    (cand .expectResponse [0x01, 0x03, 0x01, 0, 0, 0]).cfg.ignoreCrc = false ∧
    decodeCandidate (cand .expectResponse [0x01, 0x03, 0x01, 0, 0, 0]) =
      (.done, cand .expectRequest [0x01, 0x03, 0x01, 0, 0, 0]) ∧
    crcChk (cand .expectResponse [0x01, 0x03, 0x01, 0, 0, 0]).acc = false := by decide +kernel

/-- A held state with a saved frame meets the invariant, so no clause of it holds for want of a case. -/
theorem witness_StepKeepsTheInvariant :
    Inv { held with prev := req1, port := [0x300] } ∧
    step { held with prev := req1, port := [0x300] } =
      .next { held with prev := req1, port := [], run := .haltEof } := by
  refine ⟨⟨by decide, by decide, fun _ => by decide +kernel, rfl, fun _ => ⟨by decide, 13, ?_⟩, by decide⟩, rfl⟩
  decide +kernel

theorem witness_EveryEventCompletesWhileRunning :
    (base.run = .running ∧ base.size < 300) ∧ (cand .expectRequest (List.replicate 299 0)).size < 300 := by
  decide +kernel

theorem witness_ConfigurationIsNeverWritten :
    step { held with port := [0x400] } = .next (raiseFatal .srcError held) := rfl

theorem witness_OutputTraceIsOnlyAppendedTo :
    Instr.gap ≠ .rst ∧
    exec .gap (cand .expectResponse rsp7) =
      .next { base with prev := rsp7, out := [.emit rsp7, .diag rsp7 true] } ∧
    exec .gap (haltClean base) = .refused .eventWhileHalted := ⟨nofun, gap_accepts, rfl⟩

theorem witness_LastRegisterNumberIsWriteOnly :
    exec .gap held = .next held ∧ exec .gap (haltClean base) = .refused .eventWhileHalted := ⟨rfl, rfl⟩

theorem witness_TimeoutValueHasNoEffect :
    exec .gap held = .next held ∧ exec .gap (haltClean base) = .refused .eventWhileHalted := ⟨rfl, rfl⟩

theorem witness_UnwrittenStateIsKept :
    (held.size ≠ 299 ∧ exec (.rxb 0x05) held = .next (receive 0x05 held)) ∧
    exec .eof held = .next (haltClean held) ∧ exec .serr held = .next (raiseFatal .srcError held) ∧
    exec .kerr held = .next (raiseFatal .sinkError held) ∧
    exec (.req ⟨0x01, 0x03, 0x0000, 0x000A, 0xCDC5⟩) (cand .expectRequest req1) =
      .next { cand .expectResponse req1 with lastReg := 0x0000 } ∧
    exec (.rsp ⟨0x01, 0x03, 0x02⟩) (cand .expectResponse rsp7) = .next (cand .expectRequest rsp7) :=
  ⟨⟨by decide, rfl⟩, rfl, rfl, rfl, rfl, rfl⟩

theorem witness_ServiceKeepsStatusAndParameters :
    (exec .gap held = .next held ∧ held.hold = true) ∧
    (exec .gap (cand .expectResponse rsp7) =
      .next { base with prev := rsp7, out := [.emit rsp7, .diag rsp7 true] } ∧
      (cand .expectResponse rsp7).dir = .expectResponse ∧
      Memory.byte (cand .expectResponse rsp7).acc 2 ≠ some 0) := ⟨⟨rfl, rfl⟩, gap_accepts, rfl, by decide⟩

theorem witness_ChunkIsAppendedInWireOrder :
    ({ held with port := chunk [0x05, 0x00] ++ [0x200] } : State).run = .running ∧
    ({ held with port := chunk [0x05, 0x00] ++ [0x200] } : State).port = chunk [0x05, 0x00] ++ [0x200] ∧
    held.size + ([0x05, 0x00] : List Byte).length < 300 ∧ ([0x05, 0x00] : List Byte) ≠ [] := by decide

/-- Both directions. -/
theorem witness_GluedFramesAreServedLikeFramesApart :
    (base.run = .running ∧ base.hold = false ∧ ([0x01] : List Byte) ≠ [] ∧ base.dir = .expectRequest ∧
      req1.length = 8 ∧ ∃ u, exec .gap { base with acc := req1 } = .next u) ∧
    ((cand .expectResponse []).dir = .expectResponse ∧
      (∃ b, Memory.byte rsp7 2 = some b ∧ b ≠ 0 ∧ rsp7.length = b.toNat + 5) ∧
      exec .gap { cand .expectResponse [] with acc := rsp7 } =
        .next { base with prev := rsp7, out := [.emit rsp7, .diag rsp7 true] }) :=
  ⟨⟨rfl, rfl, by decide, rfl, by decide, _, rfl⟩, rfl, ⟨0x02, by decide⟩, gap_accepts⟩

theorem witness_CompleteRequestIsEmitted :
    ({ base with port := frameWords [0x01, 0x03, 0x00, 0x00, 0x00, 0x0A] ++ idle 1 ++ [] } : State).run = .running ∧
    ({ base with port := frameWords [0x01, 0x03, 0x00, 0x00, 0x00, 0x0A] ++ idle 1 ++ [] } : State).port =
      [0x101, 0x103, 0x100, 0x100, 0x100, 0x10A, 0x1C5, 0x1CD, 0x200] ∧
    base.acc = [] ∧ base.dir = .expectRequest ∧ base.retry = 0 ∧ cmdMax base.cfg 0x03 = none := by decide +kernel

theorem witness_CompleteResponseIsEmitted :
    ({ cand .expectResponse [] with
        port := frameWords (0x01 :: 0x03 :: BitVec.ofNat 8 2 :: [0x12, 0x34]) ++ idle 1 ++ [] } : State).port =
      [0x101, 0x103, 0x102, 0x112, 0x134, 0x1B5, 0x133, 0x200] ∧
    (cand .expectResponse []).run = .running ∧ (cand .expectResponse []).acc = [] ∧
    (cand .expectResponse []).dir = .expectResponse ∧ (cand .expectResponse []).retry = 0 ∧
    1 ≤ ([0x12, 0x34] : List Byte).length ∧ (List.replicate 255 (0 : Byte)).length ≤ 255 := by decide +kernel

end Sys2Proof.Machine.Tests
end

section
/-!
PROOFS. The scope statements (00_scope.md): what a step runs, that it takes one word from the port, that
nothing writes the parameters, and that the value of `T_GAP_US` has no effect.
-/

namespace Sys2Proof.Machine

/-! ### The step, by what stands at the port -/

/-- With no event presented the core is idle (R184). -/
theorem step_of_port_nil {s : State} (hp : s.port = []) : step s = .next s := by
  simp [step, fetchEvent, hp]

/-- A word that decodes is consumed and its event is run (R8). -/
theorem step_of_port_cons {s : State} {w : EventWord} {rest : List EventWord} {i : Instr}
    (hp : s.port = w :: rest) (hd : decodeEvent w = .ok i) :
    step s = exec i { s with port := rest } := by
  simp [step, fetchEvent, hp, hd]

/-! ### The fields that neither the decoder nor `SERVICE` writes -/

/-- The decoder writes at most `LASTREG`, `OUT` and `DIR`. -/
theorem decodeCandidate_frame (s : State) :
    (decodeCandidate s).2 =
      { s with
        lastReg := (decodeCandidate s).2.lastReg
        out := (decodeCandidate s).2.out
        dir := (decodeCandidate s).2.dir } := by
  obtain ⟨n, -, -, he⟩ | ⟨-, -, he⟩ | ⟨o, t, he, -, ht⟩ := decodeCandidate_cases s
  · rw [he]
  · rw [he]
  · rw [he, ht]

@[simp] theorem decodeCandidate_run (s : State) : (decodeCandidate s).2.run = s.run := by
  rw [decodeCandidate_frame]
@[simp] theorem decodeCandidate_cause (s : State) : (decodeCandidate s).2.cause = s.cause := by
  rw [decodeCandidate_frame]
@[simp] theorem decodeCandidate_cfg (s : State) : (decodeCandidate s).2.cfg = s.cfg := by
  rw [decodeCandidate_frame]
@[simp] theorem decodeCandidate_port (s : State) : (decodeCandidate s).2.port = s.port := by
  rw [decodeCandidate_frame]

/-- `SERVICE` leaves the run status, the parameters and the events to come alone: it only decodes, flips
`DIR` for a retry, and settles an outcome. -/
theorem service_keeps (s : State) :
    (service s).run = s.run ∧ (service s).cause = s.cause ∧
    (service s).cfg = s.cfg ∧ (service s).port = s.port := by
  obtain ⟨-, he⟩ | ⟨-, -, -, -, he⟩ | ⟨-, -, -, he⟩ := service_cases s
  · simp [he]
  · simp [he]
  · simp [he]

/-! ### No instruction writes the parameters or the port -/

theorem decodeReq_keeps_cfg_port (f : ReqFrame) (s : State) :
    (decodeReq f s).2.cfg = s.cfg ∧ (decodeReq f s).2.port = s.port := by
  obtain ⟨-, he⟩ | ⟨-, he⟩ := decodeReq_cases f s <;> simp [he]

theorem decodeRsp_keeps_cfg_port (h : RspHeader) (s : State) :
    (decodeRsp h s).2.cfg = s.cfg ∧ (decodeRsp h s).2.port = s.port := by
  obtain ⟨-, he⟩ | ⟨-, -, -, he⟩ | ⟨-, -, -, he⟩ | ⟨-, -, he⟩ := decodeRsp_cases h s <;> simp [he]

/-- The parameters and the events to come are the environment's: every instruction keeps them (R36). -/
theorem exec_keeps_cfg_port {i : Instr} {s t : State} (h : exec i s = .next t) :
    t.cfg = s.cfg ∧ t.port = s.port := by
  have hn := exec_next h
  cases i with
  | rst => subst hn; exact ⟨rfl, rfl⟩
  | rxb b =>
    obtain ⟨-, -, ⟨-, rfl⟩ | ⟨-, rfl⟩⟩ := hn
    · exact ⟨rfl, rfl⟩
    · exact (service_keeps (receive b s)).2.2
  | gap =>
    obtain ⟨-, ⟨-, -, rfl⟩ | ⟨-, rfl⟩⟩ := hn
    · exact (service_keeps s).2.2
    · exact ⟨rfl, rfl⟩
  | eof => obtain ⟨-, rfl⟩ := hn; exact ⟨rfl, rfl⟩
  | serr => obtain ⟨-, rfl⟩ := hn; exact ⟨rfl, rfl⟩
  | kerr => obtain ⟨-, rfl⟩ := hn; exact ⟨rfl, rfl⟩
  | req f => subst hn; exact decodeReq_keeps_cfg_port f s
  | rsp r => subst hn; exact decodeRsp_keeps_cfg_port r s

/-- A step keeps the parameters and takes the head of the port, if there is one. -/
theorem step_keeps_cfg_and_takes_head {s t : State} (h : step s = .next t) :
    t.cfg = s.cfg ∧ t.port = s.port.tail := by
  obtain ⟨hp, rfl⟩ | ⟨w, rest, i, hp, -, hx⟩ := step_next h
  · simp [hp]
  · simpa [hp] using exec_keeps_cfg_port hx

/-- `EXIT_FATAL` is legal whatever the open value behind it (R6). -/
theorem nonZero_ne_zero (n : Int) : Config.nonZero n ≠ 0 := by
  unfold Config.nonZero
  split <;> omega

theorem configDefault_wf : Config.default.wf = true := by
  simp [Config.wf, Config.default, nonZero_ne_zero]

/-! ### Changing `T_GAP_US` alone commutes with every operation -/

/-- The same core with another value of `T_GAP_US`. -/
def State.withTimeout (us : Nat) (s : State) : State := { s with cfg := { s.cfg with tGapUs := us } }

/-- An outcome with its next state, if it has one, changed by `g`. -/
def mapNext (g : State → State) :
    Host.Outcome State Fault Refusal → Host.Outcome State Fault Refusal
  | .next t => .next (g t)
  | .fault r => .fault r
  | .refused r => .refused r

theorem decodeReq_withTimeout (us : Nat) (f : ReqFrame) (s : State) :
    decodeReq f (s.withTimeout us) = ((decodeReq f s).1, (decodeReq f s).2.withTimeout us) := by
  by_cases hs : s.size < reqLen
  · rw [decodeReq, decodeReq, if_pos hs]
    exact if_pos hs
  · rw [decodeReq, decodeReq, if_neg hs]
    exact if_neg hs

theorem effectiveByteCount_withTimeout (us : Nat) (h : RspHeader) (s : State) :
    effectiveByteCount h (s.withTimeout us) = effectiveByteCount h s := rfl

theorem decodeRsp_withTimeout (us : Nat) (h : RspHeader) (s : State) :
    decodeRsp h (s.withTimeout us) = ((decodeRsp h s).1, (decodeRsp h s).2.withTimeout us) := by
  by_cases h0 : h.byteCount = 0
  · simp only [decodeRsp, if_pos h0]
  · simp only [decodeRsp, if_neg h0, effectiveByteCount_withTimeout]
    cases effectiveByteCount h s <;> rfl

theorem decodeCandidate_withTimeout (us : Nat) (s : State) :
    decodeCandidate (s.withTimeout us) =
      ((decodeCandidate s).1, (decodeCandidate s).2.withTimeout us) := by
  have hdir : (s.withTimeout us).dir = s.dir := rfl
  have hacc : (s.withTimeout us).acc = s.acc := rfl
  unfold decodeCandidate
  rw [hdir, hacc]
  cases s.dir with
  | expectRequest =>
    cases parseReq s.acc with
    | none => rfl
    | some f => exact decodeReq_withTimeout us f s
  | expectResponse =>
    cases parseRsp s.acc with
    | none => rfl
    | some h => exact decodeRsp_withTimeout us h s

theorem settle_withTimeout (us : Nat) (o : FrameOutcome) (s : State) :
    settle o (s.withTimeout us) = (settle o s).withTimeout us := by
  cases o <;> rfl

theorem serviceLoop_withTimeout (us left : Nat) (s : State) :
    serviceLoop left (s.withTimeout us) = (serviceLoop left s).withTimeout us := by
  induction left generalizing s with
  | zero => simp only [serviceLoop, decodeCandidate_withTimeout, settle_withTimeout]
  | succ left ih =>
    simp only [serviceLoop, decodeCandidate_withTimeout]
    obtain ⟨o, t⟩ := decodeCandidate s
    cases o with
    | directionWrong => exact ih t.retryFlipped
    | needsMoreBytes n => exact settle_withTimeout us _ t
    | done => exact settle_withTimeout us _ t
    | hasTrailingBytes n => exact settle_withTimeout us _ t

theorem service_withTimeout (us : Nat) (s : State) :
    service (s.withTimeout us) = (service s).withTimeout us :=
  serviceLoop_withTimeout us s.retriesLeft s

/-- The precondition of R176 does not look at the parameters. -/
theorem whenRunning_withTimeout (us : Nat) (s : State) (k : Host.Outcome State Fault Refusal) :
    whenRunning (s.withTimeout us) (mapNext (State.withTimeout us) k) =
      mapNext (State.withTimeout us) (whenRunning s k) := by
  by_cases hr : s.run = .running
  · rw [whenRunning_running hr, whenRunning_running (s := s.withTimeout us) hr]
  · rw [whenRunning_halted hr, whenRunning_halted (s := s.withTimeout us) hr]
    rfl

theorem execRxb_withTimeout (us : Nat) (b : Byte) (s : State) :
    execRxb b (s.withTimeout us) = mapNext (State.withTimeout us) (execRxb b s) := by
  rw [execRxb, execRxb, ← whenRunning_withTimeout, apply_ite (mapNext _), mapNext,
    apply_ite (State.withTimeout us), ← service_withTimeout]
  rfl

theorem execGap_withTimeout (us : Nat) (s : State) :
    execGap (s.withTimeout us) = mapNext (State.withTimeout us) (execGap s) := by
  rw [execGap, execGap, ← whenRunning_withTimeout, mapNext, apply_ite (State.withTimeout us),
    ← service_withTimeout]
  rfl

/-- `T_GAP_US` is read by no rule of the core (R6, R181): an instruction answers the same outcome but for
that parameter. -/
theorem exec_withTimeout (us : Nat) (i : Instr) (s : State) :
    exec i (s.withTimeout us) = mapNext (State.withTimeout us) (exec i s) := by
  cases i with
  | rst => rfl
  | rxb b => exact execRxb_withTimeout us b s
  | gap => exact execGap_withTimeout us s
  | eof => exact whenRunning_withTimeout us s (.next (haltClean s))
  | serr => exact whenRunning_withTimeout us s (.next (raiseFatal .srcError s))
  | kerr => exact whenRunning_withTimeout us s (.next (raiseFatal .sinkError s))
  | req f => exact congrArg (fun r => Host.Outcome.next r.2) (decodeReq_withTimeout us f s)
  | rsp h => exact congrArg (fun r => Host.Outcome.next r.2) (decodeRsp_withTimeout us h s)

/-! ### The obligations -/

/-- Settles O54: changing `T_GAP_US` commutes with `exec`, so both outcomes carry over. -/
theorem timeoutValueHasNoEffect : Obligations.TimeoutValueHasNoEffect := by
  intro i s us
  have hcomm := exec_withTimeout us i s
  constructor
  · intro t ht
    rw [ht] at hcomm
    exact hcomm
  · intro r hr
    rw [hr] at hcomm
    exact hcomm

/-- Settles O11: an idle step keeps the state, any other step takes the head of the port. -/
theorem stepConsumesOneEvent : Obligations.StepConsumesOneEvent :=
  ⟨fun _ hp => step_of_port_nil hp, fun _ _ h => (step_keeps_cfg_and_takes_head h).2⟩

/-- Settles O51: the defaults are legal for every value of the open parameters, and no step writes `cfg`. -/
theorem configurationIsNeverWritten : Obligations.ConfigurationIsNeverWritten :=
  ⟨configDefault_wf, fun _ _ h => (step_keeps_cfg_and_takes_head h).1⟩

/-- Settles O7: the step fetches the word at the head of the port and runs what it decodes to. -/
theorem stepRunsTheDecodedEvent : Obligations.StepRunsTheDecodedEvent :=
  fun _ _ _ _ hp hd => step_of_port_cons hp hd

end Sys2Proof.Machine
end

section
/-!
PROOFS. The state statements (10_state.md), part 1: what `SERVICE` leaves of the memories, and the invariant.
-/

namespace Sys2Proof.Machine

/-! ### What the decoder reads, and what it leaves alone -/

theorem effectiveByteCount_congr {s t : State} (h : RspHeader) (hacc : t.acc = s.acc)
    (hprev : t.prev = s.prev) : effectiveByteCount h t = effectiveByteCount h s := by
  unfold effectiveByteCount bugTolerance fpMatch prevFingerprint accFingerprint State.size State.prevLen
  rw [hacc, hprev]

theorem decodeReq_outcome_congr {s t : State} (f : ReqFrame) (hacc : t.acc = s.acc) :
    (decodeReq f t).1 = (decodeReq f s).1 := by
  simp only [decodeReq, State.size, hacc]
  split <;> rfl

theorem decodeRsp_outcome_congr {s t : State} (h : RspHeader) (hacc : t.acc = s.acc)
    (hprev : t.prev = s.prev) : (decodeRsp h t).1 = (decodeRsp h s).1 := by
  simp only [decodeRsp, effectiveByteCount_congr h hacc hprev, State.size, hacc]
  split
  · rfl
  · split <;> rfl

/-- The outcome of `DECODE` is a function of `ACC`, `PREV` and `DIR` (R130 to R139). -/
theorem decodeCandidate_outcome_congr {s t : State} (hacc : t.acc = s.acc) (hprev : t.prev = s.prev)
    (hdir : t.dir = s.dir) : (decodeCandidate t).1 = (decodeCandidate s).1 := by
  unfold decodeCandidate
  rw [hdir, hacc]
  cases s.dir with
  | expectRequest =>
    cases parseReq s.acc with
    | none => simp only [State.size, hacc]
    | some f => exact decodeReq_outcome_congr f hacc
  | expectResponse =>
    cases parseRsp s.acc with
    | none => simp only [State.size, hacc]
    | some h => exact decodeRsp_outcome_congr h hacc hprev

theorem decodeReq_prev (f : ReqFrame) (s : State) : (decodeReq f s).2.prev = s.prev := by
  obtain ⟨-, he⟩ | ⟨-, he⟩ := decodeReq_cases f s <;> rw [he]

theorem decodeRsp_prev (h : RspHeader) (s : State) : (decodeRsp h s).2.prev = s.prev := by
  obtain ⟨-, he⟩ | ⟨-, -, -, he⟩ | ⟨-, -, -, he⟩ | ⟨-, -, he⟩ := decodeRsp_cases h s <;> rw [he]

/-! ### `SERVICE` settles one outcome -/

/-- `u` is `s` but for the registers that decoding and retrying write. -/
def DecodedFrom (s u : State) : Prop :=
  u = { s with lastReg := u.lastReg, out := u.out, dir := u.dir, retry := u.retry }

/-- What is known of the state in which an outcome is settled: under `NeedsMoreBytes` the decoder has
written nothing and says the same again, and what is left over is shorter than the candidate. -/
def OutcomeFits : FrameOutcome → State → Prop
  | .needsMoreBytes n, u => u.size < 260 ∧ (decodeCandidate u).1 = .needsMoreBytes n
  | .hasTrailingBytes n, u => n + 6 ≤ u.size
  | .done, _ => True
  | .directionWrong, _ => True

theorem decodeCandidate_decodedFrom (s : State) : DecodedFrom s (decodeCandidate s).2 := by
  rw [DecodedFrom, decodeCandidate_frame]

theorem decodeCandidate_outcomeFits (s : State) :
    OutcomeFits (decodeCandidate s).1 (decodeCandidate s).2 := by
  obtain ⟨n, -, hlt, he⟩ | ⟨-, -, he⟩ | ⟨o, t, he, ho, ht⟩ := decodeCandidate_cases s
  · rw [he]
    exact ⟨hlt, congrArg Prod.fst he⟩
  · rw [he]
    trivial
  · rw [he, ht]
    obtain ⟨rfl, -⟩ | ⟨n, rfl, -, hn⟩ := ho
    · trivial
    · exact hn

/-- `SERVICE` is `settle` of some outcome, in a state that decoding and retrying lead to (R150). -/
theorem service_eq_settle (s : State) :
    ∃ o u, service s = settle o u ∧ DecodedFrom s u ∧ OutcomeFits o u := by
  obtain ⟨-, he⟩ | ⟨-, -, -, -, he⟩ | ⟨-, -, -, he⟩ := service_cases s
  · exact ⟨_, _, he, decodeCandidate_decodedFrom s, decodeCandidate_outcomeFits s⟩
  · refine ⟨_, _, he, ?_, decodeCandidate_outcomeFits s.retryFlipped⟩
    rw [DecodedFrom, decodeCandidate_frame]
    rfl
  · exact ⟨_, _, he, rfl, trivial⟩

/-- `settle` holds the candidate, or accepts its first `e` bytes and keeps the `n` bytes behind them. -/
theorem settle_cases (o : FrameOutcome) (s : State) :
    (∃ n, o = .needsMoreBytes n ∧ settle o s = { s with hold := true, retry := 0 }) ∨
    ∃ e n, (n = 0 ∨ o = .hasTrailingBytes n) ∧
      settle o s = { accept e s with acc := Memory.compact s.acc e n, retry := 0 } := by
  cases o with
  | needsMoreBytes n => exact .inl ⟨n, rfl, rfl⟩
  | done => exact .inr ⟨s.size, 0, .inl rfl, rfl⟩
  | hasTrailingBytes n => exact .inr ⟨s.size - n, n, .inr rfl, rfl⟩
  | directionWrong => exact .inr ⟨s.size, 0, .inl rfl, rfl⟩

theorem compact_length_le (m : Memory) (e n : Nat) : (Memory.compact m e n).length ≤ n :=
  List.length_take_le n (m.drop e)

/-! ### The saved frame (R27) -/

/-- The saved frame is the old one, or a CRC-valid frame that the last two records report. -/
def PrevKeptOrReported (s t : State) : Prop :=
  t.prev = s.prev ∨
  (crcChk t.prev = true ∧ ∃ before, t.out = before ++ [.emit t.prev, .diag t.prev true])

theorem accept_prevKeptOrReported (e : Nat) (s : State) : PrevKeptOrReported s (accept e s) := by
  cases hv : crcChk (Memory.read s.acc 0 e) with
  | false => exact .inl (by simp [hv])
  | true => exact .inr ⟨by simp [hv], s.out, by simp [hv, acceptRecords]⟩

theorem settle_prevKeptOrReported (o : FrameOutcome) (s : State) :
    PrevKeptOrReported s (settle o s) := by
  obtain ⟨n, -, he⟩ | ⟨e, n, -, he⟩ := settle_cases o s
  · exact .inl (by rw [he])
  · rw [he]
    exact accept_prevKeptOrReported e s

theorem service_prevKeptOrReported (s : State) : PrevKeptOrReported s (service s) := by
  obtain ⟨o, u, he, hu, -⟩ := service_eq_settle s
  have hprev : u.prev = s.prev := by rw [hu]
  rw [he, PrevKeptOrReported, ← hprev]
  exact settle_prevKeptOrReported o u

/-- Only `SERVICE` replaces the saved frame, except that `RST` empties it. -/
theorem exec_prevKeptOrReported {i : Instr} {s t : State} (hi : i ≠ .rst) (h : exec i s = .next t) :
    PrevKeptOrReported s t := by
  have hn := exec_next h
  cases i with
  | rst => exact absurd rfl hi
  | rxb b =>
    obtain ⟨-, -, ⟨-, rfl⟩ | ⟨-, rfl⟩⟩ := hn
    · exact .inl rfl
    · exact service_prevKeptOrReported (receive b s)
  | gap =>
    obtain ⟨-, ⟨-, -, rfl⟩ | ⟨-, rfl⟩⟩ := hn
    · exact service_prevKeptOrReported s
    · exact .inl rfl
  | eof => obtain ⟨-, rfl⟩ := hn; exact .inl rfl
  | serr => obtain ⟨-, rfl⟩ := hn; exact .inl rfl
  | kerr => obtain ⟨-, rfl⟩ := hn; exact .inl rfl
  | req f => subst hn; exact .inl (decodeReq_prev f s)
  | rsp r => subst hn; exact .inl (decodeRsp_prev r s)

/-! ### The invariant (R40) -/

/-- Item 2 of R40, of the saved frame `m`. -/
def SavedFrameValid (m : Memory) : Prop :=
  m.length ≤ 300 ∧ (0 < m.length → crcChk m = true ∧ 2 ≤ m.length)

theorem Inv.savedFrameValid {s : State} (h : Inv s) : SavedFrameValid s.prev :=
  ⟨h.prevLen_le, h.prev_valid⟩

theorem accept_savedFrameValid {s : State} (e : Nat) (hsize : s.size ≤ 300)
    (hprev : SavedFrameValid s.prev) : SavedFrameValid (accept e s).prev := by
  rw [accept_prev]
  split
  · rename_i hv
    exact ⟨(read_length_le s.acc 0 e).trans hsize, fun _ => ⟨hv, two_le_of_crcChk hv⟩⟩
  · exact hprev

theorem HoldJustified.of_not_held {s : State} (h : s.hold = false) : HoldJustified s :=
  fun hh => absurd (h.symm.trans hh) Bool.false_ne_true

theorem HoldJustified.congr {s t : State} (h : HoldJustified s) (hacc : t.acc = s.acc)
    (hprev : t.prev = s.prev) (hdir : t.dir = s.dir) (hhold : t.hold = s.hold) : HoldJustified t := by
  intro ht
  obtain ⟨hpos, n, hn⟩ := h (hhold.symm.trans ht)
  refine ⟨?_, n, (decodeCandidate_outcome_congr hacc hprev hdir).trans hn⟩
  rwa [State.size, hacc]

/-- The invariant does not depend on `LASTREG`, `OUT`, the parameters and the events to come, and on the
run status only by item 5. -/
theorem Inv.congr {s t : State} (h : Inv s) (hacc : t.acc = s.acc) (hprev : t.prev = s.prev)
    (hdir : t.dir = s.dir) (hretry : t.retry = s.retry) (hhold : t.hold = s.hold)
    (hcause : t.cause ≠ .none ↔ t.run = .haltFatal) : Inv t where
  size_lt := by rw [State.size, hacc]; exact h.size_lt
  prevLen_le := by rw [State.prevLen, hprev]; exact h.prevLen_le
  prev_valid := by rw [State.prevLen, hprev]; exact h.prev_valid
  retry_zero := hretry.trans h.retry_zero
  hold_justified := h.hold_justified.congr hacc hprev hdir hhold
  cause_iff := hcause

theorem resetRegisters_inv (s : State) : Inv (resetRegisters s) where
  size_lt := Nat.zero_le _
  prevLen_le := Nat.zero_le _
  prev_valid := fun h => absurd h (Nat.lt_irrefl 0)
  retry_zero := rfl
  hold_justified := .of_not_held rfl
  cause_iff := by simp

theorem receive_size (b : Byte) (s : State) : (receive b s).size = s.size + 1 :=
  List.length_append

theorem receive_inv {s : State} (b : Byte) (h : Inv s) (hs : s.size < 299) : Inv (receive b s) where
  size_lt := (receive_size b s).trans_le hs
  prevLen_le := h.prevLen_le
  prev_valid := h.prev_valid
  retry_zero := h.retry_zero
  hold_justified := .of_not_held rfl
  cause_iff := h.cause_iff

theorem haltClean_inv {s : State} (h : Inv s) (hr : s.run = .running) : Inv (haltClean s) := by
  have hc : s.cause = .none := by
    by_contra hne
    exact RunStatus.noConfusion (hr.symm.trans (h.cause_iff.mp hne))
  exact h.congr rfl rfl rfl rfl rfl (by simp [hc])

theorem raiseFatal_inv {s : State} {c : Cause} (h : Inv s) (hc : c ≠ .none) : Inv (raiseFatal c s) :=
  h.congr rfl rfl rfl rfl rfl (by simp [hc])

/-- What `SERVICE` starts from: pending bytes that are not held, up to a full accumulator, and items 2
and 5 of the invariant. -/
structure Serviceable (s : State) : Prop where
  size_pos : 0 < s.size
  size_le : s.size ≤ 300
  not_held : s.hold = false
  saved_valid : SavedFrameValid s.prev
  cause_iff : s.cause ≠ .none ↔ s.run = .haltFatal

theorem Serviceable.of_decodedFrom {s u : State} (h : Serviceable s) (hu : DecodedFrom s u) :
    Serviceable u := by
  rw [hu]
  exact ⟨h.size_pos, h.size_le, h.not_held, h.saved_valid, h.cause_iff⟩

/-- Settling a fitting outcome establishes the invariant: a hold is justified by the decode that asked for
it, and what is left of an accepted candidate is shorter than it. -/
theorem settle_inv {o : FrameOutcome} {s : State} (h : Serviceable s) (ho : OutcomeFits o s) :
    Inv (settle o s) := by
  obtain ⟨n, rfl, he⟩ | ⟨e, n, hn, he⟩ := settle_cases o s
  · obtain ⟨hlt, hdec⟩ := ho
    obtain ⟨hlen, hvalid⟩ := h.saved_valid
    have hagain : (decodeCandidate { s with hold := true, retry := 0 }).1 = (decodeCandidate s).1 :=
      decodeCandidate_outcome_congr rfl rfl rfl
    rw [he]
    exact ⟨(show s.size < 260 from hlt).le.trans (by decide), hlen, hvalid, rfl,
      fun _ => ⟨h.size_pos, n, hagain.trans hdec⟩, h.cause_iff⟩
  · obtain ⟨hlen, hvalid⟩ := accept_savedFrameValid e h.size_le h.saved_valid
    have hleft : n ≤ 299 := by
      obtain rfl | rfl := hn
      · exact Nat.zero_le _
      · have hfit : n + 6 ≤ s.size := ho
        have hle := h.size_le
        omega
    rw [he]
    exact ⟨(compact_length_le s.acc e n).trans hleft, hlen, hvalid, rfl, .of_not_held h.not_held,
      h.cause_iff⟩

theorem service_inv {s : State} (h : Serviceable s) : Inv (service s) := by
  obtain ⟨o, u, he, hu, ho⟩ := service_eq_settle s
  rw [he]
  exact settle_inv (h.of_decodedFrom hu) ho

theorem serviceable_of_inv {s : State} (h : Inv s) (hpos : 0 < s.size) (hhold : s.hold = false) :
    Serviceable s :=
  ⟨hpos, h.size_lt.trans (by decide), hhold, h.savedFrameValid, h.cause_iff⟩

theorem receive_serviceable {s : State} (b : Byte) (h : Inv s) : Serviceable (receive b s) where
  size_pos := (receive_size b s).symm ▸ Nat.succ_pos _
  size_le := (receive_size b s).trans_le (Nat.succ_le_succ h.size_lt)
  not_held := rfl
  saved_valid := h.savedFrameValid
  cause_iff := h.cause_iff

/-- Every event keeps the invariant. The frame formats are no events (R11): run alone, one of them can
complete and flip `DIR` under a hold, which then is no longer justified. -/
theorem exec_event_inv {i : Instr} {s t : State} (hreq : ∀ f, i ≠ .req f) (hrsp : ∀ r, i ≠ .rsp r)
    (hs : Inv s) (h : exec i s = .next t) : Inv t := by
  have hn := exec_next h
  cases i with
  | rst => subst hn; exact resetRegisters_inv s
  | rxb b =>
    obtain ⟨-, -, ⟨hne, rfl⟩ | ⟨-, rfl⟩⟩ := hn
    · exact receive_inv b hs (lt_of_le_of_ne hs.size_lt hne)
    · exact service_inv (receive_serviceable b hs)
  | gap =>
    obtain ⟨-, ⟨hpos, hhold, rfl⟩ | ⟨-, rfl⟩⟩ := hn
    · exact service_inv (serviceable_of_inv hs hpos hhold)
    · exact hs
  | eof => obtain ⟨hr, rfl⟩ := hn; exact haltClean_inv hs hr
  | serr => obtain ⟨-, rfl⟩ := hn; exact raiseFatal_inv hs Cause.noConfusion
  | kerr => obtain ⟨-, rfl⟩ := hn; exact raiseFatal_inv hs Cause.noConfusion
  | req f => exact absurd rfl (hreq f)
  | rsp r => exact absurd rfl (hrsp r)

/-! ### The obligations on the invariant and the saved frame -/

/-- Settles O48: a step is idle or runs an event, and every event keeps the invariant. -/
theorem stepKeepsTheInvariant : Obligations.StepKeepsTheInvariant := by
  intro s t hs h
  obtain ⟨-, rfl⟩ | ⟨w, rest, i, -, hd, hx⟩ := step_next h
  · exact hs
  · obtain ⟨hreq, hrsp⟩ := decodeEvent_event hd
    have hfetched : Inv { s with port := rest } := hs.congr rfl rfl rfl rfl rfl hs.cause_iff
    exact exec_event_inv hreq hrsp hfetched hx

/-- Settles O49: the power-on state is a reset state. -/
theorem invariantHoldsAtReset : Obligations.InvariantHoldsAtReset :=
  resetRegisters_inv State.reset

/-- Settles O45: only `ACCEPT` writes the saved frame, and it reports the frame it saves. -/
theorem savedFrameIsReplacedOnlyByValidFrames : Obligations.SavedFrameIsReplacedOnlyByValidFrames :=
  fun _ _ _ hi h => exec_prevKeptOrReported hi h

/-- Settles O13: each value stands in `State.reset`, and `RST` writes the same values. -/
theorem powerOnStateIsTheResetState : Obligations.PowerOnStateIsTheResetState :=
  ⟨rfl, rfl, rfl, rfl, rfl, rfl, rfl, rfl, rfl, rfl, rfl, fun _ => rfl, fun _ => rfl⟩

theorem dirCode_flipDir (d : Dir) : dirCode (flipDir d) = 1 - dirCode d := by
  cases d with
  | expectRequest => decide
  | expectResponse => decide

/-- Settles O22: the codes are the definition's; `1 − DIR` is checked for both directions. -/
theorem statusCodesAreAsListed : Obligations.StatusCodesAreAsListed :=
  ⟨rfl, rfl, dirCode_flipDir, rfl, rfl, rfl, rfl, rfl, rfl⟩

end Sys2Proof.Machine
end

section
/-!
PROOFS. The state statements (10_state.md), part 2: `OUT` and `LASTREG` are never read. Two states that
differ in what stands before in the trace and in `LASTREG` answer alike.
-/

namespace Sys2Proof.Machine

/-! ### States that differ in `LASTREG` and in the start of `OUT` -/

section
variable (P : Half → Half → Prop) (before : List Record)

/-- `s'` is `s` with the records `before` put before the trace and another `LASTREG`, related to the old
one by `P`. -/
def Alike (s s' : State) : Prop :=
  ∃ v, P s.lastReg v ∧ s' = { s with lastReg := v, out := before ++ s.out }

/-- Decoder results that are alike: the same outcome, in states that are. -/
def AlikeDecode (r r' : FrameOutcome × State) : Prop := r'.1 = r.1 ∧ Alike P before r.2 r'.2

/-- Outcomes of an instruction that are alike: next states that are, or the same refusal. -/
inductive AlikeOutcome :
    Host.Outcome State Fault Refusal → Host.Outcome State Fault Refusal → Prop
  | next {t t' : State} (h : Alike P before t t') : AlikeOutcome (.next t) (.next t')
  | refused (r : Refusal) : AlikeOutcome (.refused r) (.refused r)

end

section
variable {P : Half → Half → Prop} {before : List Record} {s s' : State}

theorem Alike.acc (h : Alike P before s s') : s'.acc = s.acc := by obtain ⟨v, -, rfl⟩ := h; rfl
theorem Alike.prev (h : Alike P before s s') : s'.prev = s.prev := by obtain ⟨v, -, rfl⟩ := h; rfl
theorem Alike.dir (h : Alike P before s s') : s'.dir = s.dir := by obtain ⟨v, -, rfl⟩ := h; rfl
theorem Alike.retry (h : Alike P before s s') : s'.retry = s.retry := by obtain ⟨v, -, rfl⟩ := h; rfl
theorem Alike.hold (h : Alike P before s s') : s'.hold = s.hold := by obtain ⟨v, -, rfl⟩ := h; rfl
theorem Alike.run (h : Alike P before s s') : s'.run = s.run := by obtain ⟨v, -, rfl⟩ := h; rfl

/-! ### Every operation keeps states alike -/

theorem Alike.retryFlipped (h : Alike P before s s') :
    Alike P before s.retryFlipped s'.retryFlipped := by
  obtain ⟨v, hv, rfl⟩ := h
  exact ⟨v, hv, rfl⟩

theorem Alike.receive (b : Byte) (h : Alike P before s s') :
    Alike P before (receive b s) (receive b s') := by
  obtain ⟨v, hv, rfl⟩ := h
  exact ⟨v, hv, rfl⟩

theorem Alike.haltClean (h : Alike P before s s') : Alike P before (haltClean s) (haltClean s') := by
  obtain ⟨v, hv, rfl⟩ := h
  exact ⟨v, hv, rfl⟩

theorem Alike.raiseFatal (c : Cause) (h : Alike P before s s') :
    Alike P before (raiseFatal c s) (raiseFatal c s') := by
  obtain ⟨v, hv, rfl⟩ := h
  exact ⟨v, hv, rfl⟩

theorem Alike.accept (e : Nat) (h : Alike P before s s') : Alike P before (accept e s) (accept e s') := by
  obtain ⟨v, hv, rfl⟩ := h
  exact ⟨v, hv, by simp [Machine.accept, State.put]⟩

theorem Alike.settle (o : FrameOutcome) (h : Alike P before s s') :
    Alike P before (settle o s) (settle o s') := by
  have hsize : s'.size = s.size := congrArg List.length h.acc
  cases o with
  | needsMoreBytes n =>
    obtain ⟨v, hv, rfl⟩ := h
    exact ⟨v, hv, rfl⟩
  | done =>
    obtain ⟨v, hv, he⟩ := h.accept s.size
    exact ⟨v, hv, by rw [settle_done, settle_done, hsize, he]⟩
  | hasTrailingBytes n =>
    obtain ⟨v, hv, he⟩ := h.accept (s.size - n)
    exact ⟨v, hv, by rw [settle_hasTrailingBytes, settle_hasTrailingBytes, hsize, he, h.acc]⟩
  | directionWrong =>
    obtain ⟨v, hv, he⟩ := h.accept s.size
    exact ⟨v, hv, by rw [settle_directionWrong, settle_directionWrong, hsize, he]⟩

/-- `DECODE_REQ` writes `LASTREG` in both states with the same value, or in neither. -/
theorem Alike.decodeReq (hP : ∀ v, P v v) (f : ReqFrame) (h : Alike P before s s') :
    AlikeDecode P before (decodeReq f s) (decodeReq f s') := by
  refine ⟨decodeReq_outcome_congr f h.acc, ?_⟩
  obtain ⟨v, hv, rfl⟩ := h
  unfold Machine.decodeReq
  split
  · exact ⟨v, hv, rfl⟩
  · exact ⟨f.startRegister, hP _, by simp⟩

theorem Alike.decodeRsp (h : RspHeader) (hs : Alike P before s s') :
    AlikeDecode P before (decodeRsp h s) (decodeRsp h s') := by
  refine ⟨decodeRsp_outcome_congr h hs.acc hs.prev, ?_⟩
  unfold Machine.decodeRsp
  rw [effectiveByteCount_congr h hs.acc hs.prev]
  obtain ⟨v, hv, rfl⟩ := hs
  split
  · exact ⟨v, hv, rfl⟩
  · split <;> exact ⟨v, hv, rfl⟩

theorem Alike.decodeCandidate (hP : ∀ v, P v v) (h : Alike P before s s') :
    AlikeDecode P before (decodeCandidate s) (decodeCandidate s') := by
  refine ⟨decodeCandidate_outcome_congr h.acc h.prev h.dir, ?_⟩
  unfold Machine.decodeCandidate
  rw [h.dir, h.acc]
  cases s.dir with
  | expectRequest =>
    cases parseReq s.acc with
    | none => exact h
    | some f => exact (h.decodeReq hP f).2
  | expectResponse =>
    cases parseRsp s.acc with
    | none => exact h
    | some r => exact (h.decodeRsp r).2

/-- One turn of the loop of `SERVICE`, by the outcome of the decode (R150, R154). -/
theorem serviceLoop_succ (left : Nat) (s : State) :
    serviceLoop (left + 1) s =
      if (decodeCandidate s).1 = .directionWrong then
        serviceLoop left (decodeCandidate s).2.retryFlipped
      else settle (decodeCandidate s).1 (decodeCandidate s).2 := by
  rw [serviceLoop]
  split
  · next t he => rw [he, if_pos rfl]
  · next o t ho he => rw [he, if_neg ho]

theorem Alike.serviceLoop (hP : ∀ v, P v v) (left : Nat) (h : Alike P before s s') :
    Alike P before (serviceLoop left s) (serviceLoop left s') := by
  induction left generalizing s s' with
  | zero =>
    obtain ⟨ho, ht⟩ := h.decodeCandidate hP
    rw [Machine.serviceLoop, Machine.serviceLoop, ho]
    exact ht.settle _
  | succ left ih =>
    obtain ⟨ho, ht⟩ := h.decodeCandidate hP
    rw [serviceLoop_succ, serviceLoop_succ, ho]
    split
    · exact ih ht.retryFlipped
    · exact ht.settle _

theorem Alike.service (hP : ∀ v, P v v) (h : Alike P before s s') :
    Alike P before (service s) (service s') := by
  unfold Machine.service State.retriesLeft
  rw [h.retry]
  exact h.serviceLoop hP _

/-! ### Every instruction answers alike -/

theorem Alike.whenRunning (h : Alike P before s s') {k k' : Host.Outcome State Fault Refusal}
    (hk : AlikeOutcome P before k k') :
    AlikeOutcome P before (whenRunning s k) (whenRunning s' k') := by
  unfold Machine.whenRunning
  rw [h.run]
  split
  · exact hk
  · exact .refused _

theorem Alike.execRxb (hP : ∀ v, P v v) (b : Byte) (h : Alike P before s s') :
    AlikeOutcome P before (execRxb b s) (execRxb b s') := by
  refine h.whenRunning ?_
  have hr := h.receive b
  have hsize : s'.size = s.size := congrArg List.length h.acc
  rw [receive_size, receive_size, hsize]
  split
  · refine .next ?_
    split
    · exact hr.service hP
    · exact hr
  · exact .refused _

theorem Alike.execGap (hP : ∀ v, P v v) (h : Alike P before s s') :
    AlikeOutcome P before (execGap s) (execGap s') := by
  refine h.whenRunning (.next ?_)
  rw [State.size, State.size, h.acc, h.hold]
  split
  · exact h.service hP
  · exact h

/-- No instruction reads `LASTREG` or `OUT`. `RST`, which empties the trace, is the one that does not
append to it. -/
theorem Alike.exec (hP : ∀ v, P v v) {i : Instr} (hi : i ≠ .rst) (h : Alike P before s s') :
    AlikeOutcome P before (exec i s) (exec i s') := by
  cases i with
  | rst => exact absurd rfl hi
  | rxb b => exact h.execRxb hP b
  | gap => exact h.execGap hP
  | eof => exact h.whenRunning (.next h.haltClean)
  | serr => exact h.whenRunning (.next (h.raiseFatal .srcError))
  | kerr => exact h.whenRunning (.next (h.raiseFatal .sinkError))
  | req f => exact .next (h.decodeReq hP f).2
  | rsp r => exact .next (h.decodeRsp r).2

theorem AlikeOutcome.of_next {t : State} {k : Host.Outcome State Fault Refusal}
    (h : AlikeOutcome P before (.next t) k) : ∃ t', k = .next t' ∧ Alike P before t t' := by
  cases h with
  | next ht => exact ⟨_, rfl, ht⟩

theorem AlikeOutcome.of_refused {r : Refusal} {k : Host.Outcome State Fault Refusal}
    (h : AlikeOutcome P before (.refused r) k) : k = .refused r := by
  cases h with
  | refused => rfl

end

/-! ### The obligations on `OUT` and `LASTREG` -/

/-- Settles O52: states alike but for the start of the trace, with equal `LASTREG`, answer alike. -/
theorem outputTraceIsOnlyAppendedTo : Obligations.OutputTraceIsOnlyAppendedTo := by
  intro i s before hi
  have hs : Alike Eq before s { s with out := before ++ s.out } := ⟨s.lastReg, rfl, rfl⟩
  have hx := hs.exec (fun _ => rfl) hi
  constructor
  · intro t ht
    rw [ht] at hx
    obtain ⟨t', ht', v, rfl, rfl⟩ := hx.of_next
    exact ht'
  · intro r hr
    rw [hr] at hx
    exact hx.of_refused

/-- `RST` gives `LASTREG` the value of a parameter, so its old value is lost (R118). -/
theorem exec_rst_lastReg (s : State) (v : Half) : exec .rst { s with lastReg := v } = exec .rst s := rfl

/-- Settles O53: states alike but for `LASTREG`, with the same trace, answer alike, and `RST` answers the
same state in both. -/
theorem lastRegisterNumberIsWriteOnly : Obligations.LastRegisterNumberIsWriteOnly := by
  intro i s v
  by_cases hi : i = .rst
  · subst hi
    rw [exec_rst_lastReg]
    exact ⟨fun t ht => ⟨t.lastReg, ht⟩, fun r hr => hr⟩
  · have hs : Alike (fun _ _ => True) [] s { s with lastReg := v } := ⟨v, trivial, rfl⟩
    have hx := hs.exec (fun _ => trivial) hi
    constructor
    · intro t ht
      rw [ht] at hx
      obtain ⟨t', ht', w, -, rfl⟩ := hx.of_next
      exact ⟨w, ht'⟩
    · intro r hr
      rw [hr] at hx
      exact hx.of_refused

end Sys2Proof.Machine
end

section
/-!
PROOFS. The memory statements (20_memory.md): what `SERVICE` leaves in `ACC` and `PREV` when bytes trail
the frame.
-/

namespace Sys2Proof.Machine

/-! ### Reading and compacting a memory -/

theorem read_zero (m : Memory) (n : Nat) : Memory.read m 0 n = m.take n := rfl

theorem compact_byte (m : Memory) (e n a : Nat) :
    Memory.byte (Memory.compact m e n) a = if a < n then Memory.byte m (e + a) else none :=
  read_byte m e n a

theorem compact_length {m : Memory} {e n : Nat} (h : e + n ≤ m.length) :
    (Memory.compact m e n).length = n := by
  rw [Memory.compact, Memory.read, List.length_take, List.length_drop]
  omega

/-! ### `SERVICE` with `n` bytes behind the frame (R153) -/

section
variable {s t : State} {n : Nat}

/-- The decoder writes neither memory. -/
theorem decodedFrom_of_decodeCandidate {o : FrameOutcome} (h : decodeCandidate s = (o, t)) :
    DecodedFrom s t := by
  have hd := decodeCandidate_decodedFrom s
  rwa [h] at hd

/-- Completion leaves a frame in front of the bytes it counts as trailing (R140). -/
theorem trailing_le_size (h : decodeCandidate s = (.hasTrailingBytes n, t)) : n ≤ s.size := by
  have hfits := decodeCandidate_outcomeFits s
  rw [h] at hfits
  have hfit : n + 6 ≤ t.size := hfits
  have hsize : t.size = s.size := by rw [decodedFrom_of_decodeCandidate h]
  omega

theorem service_of_hasTrailingBytes (h : decodeCandidate s = (.hasTrailingBytes n, t)) :
    service s = settle (.hasTrailingBytes n) t := by
  have hne : (decodeCandidate s).1 ≠ .directionWrong := by rw [h]; exact FrameOutcome.noConfusion
  rw [service_of_ne_directionWrong hne, h]

/-- R62: the trailing bytes move to the front. -/
theorem service_acc_of_hasTrailingBytes (h : decodeCandidate s = (.hasTrailingBytes n, t)) :
    (service s).acc = Memory.compact s.acc (s.size - n) n := by
  rw [service_of_hasTrailingBytes h, decodedFrom_of_decodeCandidate h]
  rfl

/-- R63: the bytes before the trailing ones are saved if they are CRC-valid. -/
theorem service_prev_of_hasTrailingBytes (h : decodeCandidate s = (.hasTrailingBytes n, t)) :
    (service s).prev =
      if crcChk (s.acc.take (s.size - n)) then s.acc.take (s.size - n) else s.prev := by
  rw [service_of_hasTrailingBytes h, decodedFrom_of_decodeCandidate h]
  rfl

end

/-! ### The obligation -/

/-- Settles O42: the accumulator is the compaction of the old one, and the saved frame its front or the
old saved frame, by the CRC verdict. -/
theorem compactionAndSnapshotMoveBytes : Obligations.CompactionAndSnapshotMoveBytes := by
  intro s t n h
  have hacc := service_acc_of_hasTrailingBytes h
  have hprev := service_prev_of_hasTrailingBytes h
  have hn := trailing_le_size h
  refine ⟨fun a ha => ?_, fun a ha => ?_, ?_, fun hv => ?_, fun hv a => ?_⟩
  · rw [hacc, compact_byte, if_pos ha]
  · rw [hacc, compact_byte, if_neg (Nat.not_lt.mpr ha)]
  · rw [State.size, hacc, compact_length (Nat.sub_add_cancel hn).le]
  · rw [if_pos hv, ← read_zero] at hprev
    refine ⟨?_, fun a ha => ?_⟩
    · rw [State.prevLen, hprev, read_zero, List.length_take_of_le (Nat.sub_le _ _)]
    · rw [hprev, read_byte, if_pos ha, Nat.zero_add]
  · rw [hprev, hv, if_neg Bool.false_ne_true]

end Sys2Proof.Machine
end

section
/-!
PROOFS. The encoding statements (30_encoding.md), part 1: what the decoders of event words and of frames
answer, and what a step does with a reserved or a placed word.
-/

namespace Sys2Proof

/-! ### The event word (R71 to R73): the decoder by the word's kind -/

section
variable {w : EventWord}

theorem decodeEvent_of_kind_zero (h : eventKind w = 0) : decodeEvent w = .ok .rst := by
  rw [decodeEvent, h]; rfl
theorem decodeEvent_of_kind_one (h : eventKind w = 1) : decodeEvent w = .ok (.rxb (eventData w)) := by
  rw [decodeEvent, h]; rfl
theorem decodeEvent_of_kind_two (h : eventKind w = 2) : decodeEvent w = .ok .gap := by
  rw [decodeEvent, h]; rfl
theorem decodeEvent_of_kind_three (h : eventKind w = 3) : decodeEvent w = .ok .eof := by
  rw [decodeEvent, h]; rfl
theorem decodeEvent_of_kind_four (h : eventKind w = 4) : decodeEvent w = .ok .serr := by
  rw [decodeEvent, h]; rfl
theorem decodeEvent_of_kind_five (h : eventKind w = 5) : decodeEvent w = .ok .kerr := by
  rw [decodeEvent, h]; rfl

/-- Kinds 6 and 7 are reserved (R73). -/
theorem decodeEvent_of_reserved_kind (h : eventKind w = 6 ∨ eventKind w = 7) :
    decodeEvent w = .error (.reservedKind (eventKind w)) := by
  obtain h | h := h
  · rw [decodeEvent, h]; rfl
  · rw [decodeEvent, h]; rfl

/-- The mask 0x700 keeps the kind, so a match value under it tells the kind (R71). -/
theorem eventKind_of_mask {m : EventWord} (h : w &&& 0x700 = m) : eventKind w = eventKind m := by
  subst h
  simp only [eventKind, BitVec.extractLsb'_and]
  exact (BitVec.and_allOnes (x := w.extractLsb' 8 3)).symm

end

@[simp] theorem decodeEvent_rxb (b : Byte) : decodeEvent (eventWord 1 b) = .ok (.rxb b) := by
  rw [decodeEvent_of_kind_one (eventKind_eventWord 1 b), eventData_eventWord]

@[simp] theorem decodeEvent_gap (d : Byte) : decodeEvent (eventWord 2 d) = .ok .gap :=
  decodeEvent_of_kind_two (eventKind_eventWord 2 d)

/-- The match value of `RXB` with a byte in the data field is the word of its two fields (R71). -/
theorem rxbMatch_or_data (b : Byte) : (0x100 : EventWord) ||| b.setWidth 11 = eventWord 1 b := by
  rw [eventWord, BitVec.append_def]
  rfl

/-- Two words of one kind, not that of `RXB`, decode alike (R72). -/
theorem decodeEvent_congr_of_kind {w w' : EventWord} (hk : eventKind w = eventKind w')
    (hne : eventKind w ≠ 1) : decodeEvent w = decodeEvent w' := by
  rw [decodeEvent, decodeEvent, ← hk]
  split
  case h_2 h1 => exact absurd (BitVec.eq_of_toNat_eq h1) hne
  all_goals rfl

/-! ### The frames (R75, R76) -/

/-- Below 8 bytes there is no request to read, only a count of missing bytes (R133). -/
theorem decodeFrame_short_request {bytes : List Byte} (h : bytes.length < 8) :
    decodeFrame .expectRequest bytes = .error (.shortFrame (8 - bytes.length)) := by
  rw [decodeFrame, (parseReq_eq_none_iff bytes).mpr h]
  rfl

/-- Byte 2 of a candidate whose header has arrived is the header's byte count (R76). -/
theorem byte_two_of_parseRsp {bytes : List Byte} {h : RspHeader} (hp : parseRsp bytes = some h) :
    bytes[2]? = some h.byteCount := by
  obtain ⟨rest, rfl⟩ := parseRsp_some hp
  rfl

end Sys2Proof

namespace Sys2Proof.Machine

/-! ### The outcome `DirectionWrong` (R79, R135) -/

theorem completion_ne_directionWrong (len frameLen : Nat) : completion len frameLen ≠ .directionWrong := by
  obtain ⟨-, he⟩ | ⟨-, he⟩ := completion_cases len frameLen
  · rw [he]; exact FrameOutcome.noConfusion
  · rw [he]; exact FrameOutcome.noConfusion

/-- `DECODE_RSP` rejects a header exactly for its byte count 0 (R135). -/
theorem decodeRsp_directionWrong_iff (h : RspHeader) (s : State) :
    (decodeRsp h s).1 = .directionWrong ↔ h.byteCount = 0 := by
  obtain ⟨h0, he⟩ | ⟨h0, -, -, he⟩ | ⟨h0, -, -, he⟩ | ⟨h0, -, he⟩ := decodeRsp_cases h s
  · simp [he, h0]
  · simpa [he] using h0
  · simpa [he] using h0
  · simpa [he, completion_ne_directionWrong] using h0

/-! ### A step with a reserved word, and with a placed one -/

/-- A reserved word at the front of the port is refused (R73). -/
theorem step_of_port_reserved {s : State} {w : EventWord} {rest : List EventWord}
    (hp : s.port = w :: rest) (hk : eventKind w = 6 ∨ eventKind w = 7) :
    step s = .refused (.reservedEvent (eventKind w)) := by
  simp [step, fetchEvent, hp, decodeEvent_of_reserved_kind hk]

/-- A `GAP` word on a running core with bytes pending and not held is a service (R113). -/
theorem step_of_port_gap {s : State} {d : Byte} {rest : List EventWord}
    (hp : s.port = eventWord 2 d :: rest) (hr : s.run = .running) (hs : 0 < s.size)
    (hh : s.hold = false) : step s = .next (service { s with port := rest }) := by
  rw [step_of_port_cons hp (decodeEvent_gap d), exec,
    execGap_running (s := { s with port := rest }) hr, if_pos ⟨hs, hh⟩]

theorem step_present_event {s : State} {w : EventWord} {i : Instr} (hd : decodeEvent w = .ok i) :
    step (present (.event w) s) = exec i s :=
  step_of_port_cons rfl hd

/-- A placed frame becomes the candidate, and the `GAP` placed with it services it (log entry 9). -/
theorem step_present_frame (s : State) (dir : Dir) {bytes : List Byte} (hb : bytes ≠ []) :
    step (present (.frame dir bytes) s) =
      .next (service
        { s with acc := bytes, dir := dir, hold := false, run := .running, cause := .none }) :=
  step_of_port_gap (s := present (.frame dir bytes) s) rfl rfl (List.length_pos_iff.mpr hb) rfl

/-! ### The obligations -/

/-- Settles O35: a request is never rejected, and a response header exactly for its byte count 0. -/
theorem onlyZeroByteCountIsDirectionWrong : Obligations.OnlyZeroByteCountIsDirectionWrong := by
  intro s
  cases hd : s.dir with
  | expectRequest => simp [decodeCandidate_ne_directionWrong hd]
  | expectResponse =>
    obtain ⟨hlt, he⟩ | ⟨h, hp, -, he⟩ := decodeCandidate_expectResponse hd
    · have hnone : Memory.byte s.acc 2 = none := List.getElem?_eq_none (Nat.le_of_lt_succ hlt)
      simp [he, hnone]
    · have hbyte : Memory.byte s.acc 2 = some h.byteCount := byte_two_of_parseRsp hp
      simp [he, hbyte, decodeRsp_directionWrong_iff]

/-- Settles O1: the mask keeps the kind, and each kind is one row. -/
theorem eventWordsDecodeByMatchAndMask : Obligations.EventWordsDecodeByMatchAndMask := by
  intro w
  refine ⟨fun h => decodeEvent_of_kind_zero (eventKind_of_mask h),
    fun h => decodeEvent_of_kind_one (eventKind_of_mask h),
    fun h => decodeEvent_of_kind_two (eventKind_of_mask h),
    fun h => decodeEvent_of_kind_three (eventKind_of_mask h),
    fun h => decodeEvent_of_kind_four (eventKind_of_mask h),
    fun h => decodeEvent_of_kind_five (eventKind_of_mask h), fun h => ?_, fun h => ?_⟩
  · have hk : eventKind w = 6 := eventKind_of_mask h
    rw [decodeEvent_of_reserved_kind (.inl hk), hk]
  · have hk : eventKind w = 7 := eventKind_of_mask h
    rw [decodeEvent_of_reserved_kind (.inr hk), hk]

/-- Settles O2: the data field is the operand of kind 1, and no other arm of the decoder reads it. -/
theorem dataFieldIsOperandOfReceiveOnly : Obligations.DataFieldIsOperandOfReceiveOnly := by
  refine ⟨fun b => ?_, fun w w' hk hne => decodeEvent_congr_of_kind hk hne⟩
  rw [rxbMatch_or_data, decodeEvent_rxb]

/-- Settles O3: the decoder computes on the four written-out encodings. -/
theorem writtenOutWordsDecode : Obligations.WrittenOutWordsDecode :=
  ⟨by decide, by decide, by decide, by decide⟩

/-- Settles O4: the fields are the parser's, their values those of `be16` and `le16`. -/
theorem requestFieldsAreAssembledBigEndian : Obligations.RequestFieldsAreAssembledBigEndian := by
  refine ⟨fun a f s1 s0 n1 n0 c0 c1 rest => ⟨_, rfl, rfl, rfl, ?_, ?_, ?_⟩,
    fun bytes h => decodeFrame_short_request h⟩
  · rw [be16_toNat, Nat.mul_comm]
  · rw [be16_toNat, Nat.mul_comm]
  · rw [le16_toNat, Nat.mul_comm]

/-- Settles O8: the decoder refuses kinds 6 and 7, and the step passes the refusal on. -/
theorem reservedWordIsRefused : Obligations.ReservedWordIsRefused :=
  fun _ _ _ hp hk => step_of_port_reserved hp hk

/-- Settles O10: a placed event word is the next one fetched, a placed frame the candidate of a `GAP`. -/
theorem placedWordIsRunByTheNextStep : Obligations.PlacedWordIsRunByTheNextStep := by
  refine ⟨fun s nbits w ev i henc hdec => ?_, fun s nbits w dir bytes henc hb => ?_⟩
  · have hok : decode (.event ev) = .ok i := by
      rw [decodeTableWord, henc] at hdec
      cases hd : decode (.event ev) with
      | error e => rw [hd] at hdec; exact nomatch hdec
      | ok j => rw [hd] at hdec; rw [Option.some.inj hdec]
    rw [State.withFetchWord, henc, step_present_event hok]
  · rw [State.withFetchWord, henc, step_present_frame s dir hb]

end Sys2Proof.Machine
end

section
/-!
PROOFS. The encoding statements (30_encoding.md), part 2: runs over the words of a chunk and of a frame
(R82), from the port to the records.
-/

namespace Sys2Proof.Machine

/-! ### Runs -/

section
variable {M : Host.Core} {s t : M.State}

theorem run_succ_of_step (k : Nat) (h : M.step s = .next t) : M.run (k + 1) s = M.run k t := by
  rw [Host.Core.run, h]

/-- A run that comes to a next state goes on from there. -/
theorem run_add_of_run (m k : Nat) (h : M.run m s = .next t) : M.run (m + k) s = M.run k t := by
  induction m generalizing s with
  | zero => rw [Host.Outcome.next.inj h, Nat.zero_add]
  | succ m ih =>
    rw [Host.Core.run] at h
    rw [Nat.succ_add]
    cases hs : M.step s with
    | next u => rw [hs] at h; rw [run_succ_of_step _ hs, ih h]
    | fault r => rw [hs] at h; exact nomatch h
    | refused r => rw [hs] at h; exact nomatch h

end

/-! ### The words of a chunk (R82, R111) -/

/-- An `RXB` word that does not fill the accumulator only appends its byte. -/
theorem step_of_port_rxb {s : State} {b : Byte} {rest : List EventWord}
    (hp : s.port = eventWord 1 b :: rest) (hr : s.run = .running) (hs : s.size + 1 < 300) :
    step s = .next { s with acc := s.acc ++ [b], hold := false, port := rest } := by
  have hfull : (receive b { s with port := rest }).size ≠ 300 := by
    rw [receive_size]
    exact Nat.ne_of_lt hs
  rw [step_of_port_cons hp (decodeEvent_rxb b), exec,
    execRxb_running (s := { s with port := rest }) b hr (Nat.lt_of_succ_lt hs), if_neg hfull]
  rfl

theorem run_chunk {bytes : List Byte} {s : State} {rest : List EventWord} (hr : s.run = .running)
    (hp : s.port = chunk bytes ++ rest) (hs : s.size + bytes.length < 300) (hb : bytes ≠ []) :
    core.run bytes.length s = .next { s with acc := s.acc ++ bytes, hold := false, port := rest } := by
  induction bytes generalizing s with
  | nil => exact absurd rfl hb
  | cons b bytes ih =>
    rw [List.length_cons] at hs
    have hstep := step_of_port_rxb (rest := chunk bytes ++ rest) hp hr (by omega)
    have hfirst := run_succ_of_step (M := core) bytes.length hstep
    rw [List.length_cons, hfirst]
    by_cases hlast : bytes = []
    · subst hlast
      rfl
    · have hsize : (s.acc ++ [b]).length + bytes.length < 300 := by
        rw [List.length_append, List.length_singleton, Nat.add_assoc, Nat.add_comm 1]
        exact hs
      have hrest := ih (s := { s with acc := s.acc ++ [b], hold := false, port := chunk bytes ++ rest })
        hr rfl hsize hlast
      rw [List.append_assoc, List.singleton_append] at hrest
      exact hrest

/-- The words of a frame and one `GAP` service exactly that frame (R113). -/
theorem run_chunk_gap {frame : List Byte} {s : State} {rest : List EventWord} (hr : s.run = .running)
    (hacc : s.acc = []) (hp : s.port = chunk frame ++ idle 1 ++ rest) (hpos : 0 < frame.length)
    (hlt : frame.length < 300) :
    core.run (frame.length + 1) s =
      .next (service { s with acc := frame, hold := false, port := rest }) := by
  rw [List.append_assoc] at hp
  have hchunk := run_chunk hr hp (by simpa [State.size, hacc] using hlt) (List.length_pos_iff.mp hpos)
  rw [hacc, List.nil_append] at hchunk
  rw [run_add_of_run _ _ hchunk]
  exact run_succ_of_step (M := core) 0
    (step_of_port_gap (s := { s with acc := frame, hold := false, port := idle 1 ++ rest })
      rfl hr hpos rfl)

/-! ### Frames with their correct trailer -/

/-- The trailer `FRAME` appends is the one `CRCCHK` wants (R82, R93). -/
theorem crcChk_withTrailer (body : List Byte) : crcChk (withTrailer body) = true := by
  rw [withTrailer, crcChk_append_two, le16_lo8_hi8, beq_self_eq_true]

theorem length_withTrailer (body : List Byte) : (withTrailer body).length = body.length + 2 := by
  simp [withTrailer]

/-- A candidate that is one request, with no limit in the dictionary for its function code (R132). -/
theorem decodeCandidate_exact_request {s : State} {f : ReqFrame} (hd : s.dir = .expectRequest)
    (hp : parseReq s.acc = some f) (hs : s.size = 8) (hmax : cmdMax s.cfg f.functionCode = none) :
    decodeCandidate s = (.done, { s with lastReg := f.startRegister, dir := .expectResponse }) := by
  obtain ⟨hlt, -⟩ | ⟨f', hp', -, he⟩ := decodeCandidate_expectRequest hd
  · omega
  · obtain rfl : f = f' := Option.some.inj (hp.symm.trans hp')
    simp [he, hs, completion, countWarning, hmax]

/-- A candidate that is one response with a byte count other than 0 (R135). -/
theorem decodeCandidate_exact_response {s : State} {h : RspHeader} (hd : s.dir = .expectResponse)
    (hp : parseRsp s.acc = some h) (h0 : h.byteCount ≠ 0) (hs : s.size = h.byteCount.toNat + 5) :
    decodeCandidate s = (.done, { s with dir := .expectRequest }) := by
  obtain ⟨hlt, -⟩ | ⟨h', hp', -, he⟩ := decodeCandidate_expectResponse hd
  · omega
  · obtain rfl : h = h' := Option.some.inj (hp.symm.trans hp')
    obtain ⟨hz, -⟩ | ⟨-, hlt, -⟩ | ⟨-, hlt, -⟩ | ⟨-, -, hr⟩ := decodeRsp_cases h s
    · exact absurd hz h0
    · omega
    · omega
    · rw [he, hr, hs, completion, if_pos rfl]

/-- A CRC-valid candidate that is exactly one frame is saved, emitted and cleared (R152, R156). -/
theorem service_of_done {s t : State} (h : decodeCandidate s = (.done, t)) (hv : crcChk t.acc = true) :
    service s =
      { t with acc := [], prev := t.acc, retry := 0,
               out := t.out ++ [.emit t.acc, .diag t.acc true] } := by
  have hne : (decodeCandidate s).1 ≠ .directionWrong := by rw [h]; exact FrameOutcome.noConfusion
  have hread : Memory.read t.acc 0 t.acc.length = t.acc := List.take_length
  rw [service_of_ne_directionWrong hne, h, settle_done]
  simp [accept, State.put, acceptRecords, hread, hv]

/-- The words of a frame with its correct trailer and one `GAP`, where the decoder finds exactly that frame:
one `Emit` and one `Diag` of its bytes, which become the saved frame. -/
theorem run_frame_of_done {body : List Byte} {s t : State} {rest : List EventWord}
    (hr : s.run = .running) (hacc : s.acc = []) (hp : s.port = frameWords body ++ idle 1 ++ rest)
    (hlt : body.length + 2 < 300)
    (hdec : decodeCandidate { s with acc := withTrailer body, hold := false, port := rest } = (.done, t))
    (ht : t.acc = withTrailer body) :
    core.run (body.length + 3) s =
      .next { t with
        acc := [], prev := withTrailer body, retry := 0,
        out := t.out ++ [.emit (withTrailer body), .diag (withTrailer body) true] } := by
  have hlen := length_withTrailer body
  have hrun := run_chunk_gap (frame := withTrailer body) hr hacc hp (by omega) (by omega)
  have hvalid : crcChk t.acc = true := by rw [ht, crcChk_withTrailer]
  rw [service_of_done hdec hvalid, hlen, ht] at hrun
  exact hrun

/-! ### The obligations -/

/-- Settles O57, by induction on the chunk: each `RXB` word is one step that appends its byte. -/
theorem chunkIsAppendedInWireOrder : Obligations.ChunkIsAppendedInWireOrder :=
  fun _ _ _ hr hp hs hb => run_chunk hr hp hs hb

/-- Settles O59: the candidate is exactly one request, so the frame is emitted and `LASTREG` is its start
register. -/
theorem completeRequestIsEmitted : Obligations.CompleteRequestIsEmitted := by
  intro s a f s1 s0 n1 n0 rest hr hacc hd hretry hmax hp
  have hdec := decodeCandidate_exact_request
    (s := { s with acc := withTrailer [a, f, s1, s0, n1, n0], hold := false, port := rest })
    hd rfl (length_withTrailer _) hmax
  have hshort : [a, f, s1, s0, n1, n0].length + 2 < 300 := by simp
  rw [hretry]
  exact run_frame_of_done hr hacc hp hshort hdec rfl

/-- Settles O60: the byte count is the payload's length, so the candidate is exactly one response. -/
theorem completeResponseIsEmitted : Obligations.CompleteResponseIsEmitted := by
  intro s a f payload rest hr hacc hd hretry hpos hle hp
  have hcount : (BitVec.ofNat 8 payload.length).toNat = payload.length := by
    rw [BitVec.toNat_ofNat]
    omega
  generalize BitVec.ofNat 8 payload.length = count at hcount hp ⊢
  have hne : count ≠ 0 := by
    rintro rfl
    exact absurd hcount (Nat.ne_of_lt hpos)
  have hlen : (withTrailer (a :: f :: count :: payload)).length = count.toNat + 5 := by
    rw [hcount]
    exact length_withTrailer _
  have hdec := decodeCandidate_exact_response (h := ⟨a, f, count⟩)
    (s := { s with acc := withTrailer (a :: f :: count :: payload), hold := false, port := rest })
    hd rfl hne hlen
  have hshort : (a :: f :: count :: payload).length + 2 < 300 := by
    rw [List.length_cons, List.length_cons, List.length_cons]
    omega
  rw [hretry]
  exact run_frame_of_done hr hacc hp hshort hdec rfl

end Sys2Proof.Machine
end

section
/-!
PROOFS. The CRC statements (40_crc.md): the table-driven form, the contents of the table, what `CRCCHK`
compares, the zero the correct trailer leaves, and the detection of a changed byte.
-/

namespace Sys2Proof.Machine

/-! ### The table-driven form (R91) -/

/-- A shift by eight keeps the high byte. -/
theorem ushiftRight_eight_eq_hi8 (crc : Half) : crc >>> 8 = (hi8 crc).setWidth 16 := by
  have := crc.isLt
  apply BitVec.eq_of_toNat_eq
  simp [hi8]
  omega

/-- The mask `0xFF` keeps the low byte. -/
theorem toNat_and_mask (v : Half) : (v &&& 0xFF).toNat = (lo8 v).toNat := by
  have hmask : (0xFF : Half).toNat = 2 ^ 8 - 1 := rfl
  rw [BitVec.toNat_and, hmask, Nat.and_two_pow_sub_one_eq_mod]
  simp [lo8]

/-- A byte enters the low byte of the running CRC. -/
theorem lo8_xor_setWidth (crc : Half) (b : Byte) : lo8 (crc ^^^ b.setWidth 16) = lo8 crc ^^^ b := by
  ext i hi
  have hi16 : i < 16 := by omega
  simp [lo8, hi16, BitVec.getLsbD_eq_getElem hi]

/-- A cell of `TBL` holds eight steps on its index. -/
theorem tbl_getElem? (i : Byte) : tbl[i.toNat]? = some (tblEntry i) := by
  simp [tbl, i.isLt]

/-- The table-driven update is the bit-serial one. -/
theorem crcByteTbl_eq_crcByte (crc : Half) (b : Byte) : crcByteTbl crc b = crcByte crc b := by
  rw [crcByteTbl, crcByte_eq, ushiftRight_eight_eq_hi8]

theorem crc16Tbl_eq_crc16 (bytes : List Byte) : crc16Tbl bytes = crc16 bytes := by
  have : crcByteTbl = crcByte := funext₂ crcByteTbl_eq_crcByte
  rw [crc16Tbl, this, crc16]

/-! ### The trailer (R93, R95) -/

/-- A frame of two bytes or more is a body and a trailer. -/
theorem exists_append_two_of_two_le {frame : List Byte} (h : 2 ≤ frame.length) :
    ∃ body lo hi, frame = body ++ [lo, hi] := by
  obtain ⟨lo, hi, htrailer⟩ := List.length_eq_two.mp
    (show (frame.drop (frame.length - 2)).length = 2 by rw [List.length_drop]; omega)
  exact ⟨frame.take (frame.length - 2), lo, hi, by rw [← htrailer, List.take_append_drop]⟩

/-- Two bytes drive the running CRC to zero exactly if they are its own bytes, low byte first: they do so
by `crcByte_trailer_zero`, and the engine is injective in the running CRC. -/
theorem crc16_append_two_eq_zero_iff (body : List Byte) (lo hi : Byte) :
    crc16 (body ++ [lo, hi]) = 0 ↔ crc16 body = le16 lo hi := by
  have hzero : [lo, hi].foldl crcByte (le16 lo hi) = 0 := by
    simpa using crcByte_trailer_zero (le16 lo hi)
  rw [crc16_append]
  constructor
  · exact fun h => foldl_crcByte_injective (h.trans hzero.symm)
  · intro h
    rw [h, hzero]

/-- A verdict is true exactly if the CRC of the whole is zero (R95 item 1). -/
theorem crcChk_iff_crc16_eq_zero {frame : List Byte} (h : 2 ≤ frame.length) :
    crcChk frame = true ↔ crc16 frame = 0 := by
  obtain ⟨body, lo, hi, rfl⟩ := exists_append_two_of_two_le h
  rw [crcChk_append_two, beq_iff_eq, crc16_append_two_eq_zero_iff]

theorem crc16_withTrailer (body : List Byte) : crc16 (withTrailer body) = 0 := by
  rw [withTrailer, crc16_append_two_eq_zero_iff, le16_lo8_hi8]

/-- The bytes before the changed one leave one running CRC, the changed byte separates it, and the bytes
after it keep the two apart. -/
theorem crc16_ne_of_byte_ne (m n : List Byte) {a b : Byte} (h : a ≠ b) :
    crc16 (m ++ a :: n) ≠ crc16 (m ++ b :: n) := by
  intro heq
  rw [crc16_append, crc16_append] at heq
  exact h (crcByte_injective_byte (foldl_crcByte_injective heq))

/-! ### The obligations -/

/-- Settles O24: a step is linear over exclusive-or, so the two updates agree (`crcByte_eq`). -/
theorem tableFormEqualsBitSerialForm : Obligations.TableFormEqualsBitSerialForm :=
  ⟨tbl_getElem?,
    fun crc b => ⟨tblEntry (lo8 crc ^^^ b), by rw [toNat_and_mask, lo8_xor_setWidth, tbl_getElem?], rfl⟩,
    crc16Tbl_eq_crc16⟩

/-- Settles O26: the verdict compares `CRC16` of the body with `le16` of the trailer. -/
theorem crcChkComparesTheTrailer : Obligations.CrcChkComparesTheTrailer := by
  refine ⟨fun _ => crcChk_of_length_lt_two, fun body lo hi => ?_⟩
  rw [crcChk_append_two, beq_iff_eq, ← BitVec.toNat_inj, le16_toNat, Nat.mul_comm]

/-- Settles O27, by the injectivity of the engine in the running CRC. -/
theorem correctTrailerDrivesCrcToZero : Obligations.CorrectTrailerDrivesCrcToZero :=
  ⟨crc16_withTrailer, fun _ => crcChk_iff_crc16_eq_zero, crc16_append⟩

/-- Settles O28: the accepted frame has `CRC16` zero (R95), so the changed one, of the same length, does
not. -/
theorem oneChangedByteIsDetected : Obligations.OneChangedByteIsDetected := by
  refine ⟨fun m n a b hne => crc16_ne_of_byte_ne m n hne, fun m n a b hne hvalid => ?_⟩
  have hlen : 2 ≤ (m ++ a :: n).length := two_le_of_crcChk hvalid
  have hlen' : 2 ≤ (m ++ b :: n).length := by simpa using hlen
  rw [crcChk_iff_crc16_eq_zero hlen] at hvalid
  rw [← Bool.not_eq_true, crcChk_iff_crc16_eq_zero hlen', ← hvalid]
  exact (crc16_ne_of_byte_ne m n hne).symm

/-- Settles O23, by evaluation of the bit-serial engine on the listed sequences. -/
theorem crcHasTheListedValues : Obligations.CrcHasTheListedValues := by
  unfold Obligations.CrcHasTheListedValues
  decide +kernel

/-- Settles O25, by evaluation of the 256 cells. -/
theorem tableHasTheListedContents : Obligations.TableHasTheListedContents := by
  unfold Obligations.TableHasTheListedContents
  decide +kernel

end Sys2Proof.Machine
end

section
/-!
PROOFS. The segmenter statements (41_segmenter.md): what each event does, the bound on the accumulator, and
what each instruction leaves unchanged.
-/

namespace Sys2Proof.Machine

/-! ### `SERVICE` empties or shortens a full accumulator -/

/-- A held candidate is shorter than the longest frame, and bytes left over are fewer than the candidate
(R141). -/
theorem settle_size_le {o : FrameOutcome} {s : State} (hs : s.size ≤ 300) (ho : OutcomeFits o s) :
    (settle o s).size ≤ 299 := by
  obtain ⟨n, rfl, he⟩ | ⟨e, n, hn, he⟩ := settle_cases o s
  · obtain ⟨hlt, -⟩ := ho
    rw [he]
    exact (show s.size < 260 from hlt).le.trans (by decide)
  · rw [he]
    refine (compact_length_le s.acc e n).trans ?_
    obtain rfl | rfl := hn
    · exact Nat.zero_le _
    · have hfit : n + 6 ≤ s.size := ho
      omega

theorem service_size_le {s : State} (hs : s.size ≤ 300) : (service s).size ≤ 299 := by
  obtain ⟨o, u, he, hu, ho⟩ := service_eq_settle s
  have hsize : u.size = s.size := by rw [hu]
  rw [he]
  exact settle_size_le (hsize.trans_le hs) ho

@[simp] theorem service_retry (s : State) : (service s).retry = 0 := by
  obtain ⟨o, u, he, -, -⟩ := service_eq_settle s
  rw [he, settle_retry]

/-! ### What the decoder leaves unchanged (R132, R135) -/

theorem decodeReq_frame (f : ReqFrame) (s : State) :
    (decodeReq f s).2 =
      { s with
        lastReg := (decodeReq f s).2.lastReg
        out := (decodeReq f s).2.out
        dir := (decodeReq f s).2.dir } := by
  obtain ⟨-, he⟩ | ⟨-, he⟩ := decodeReq_cases f s
  · rw [he]
  · rw [he]

theorem decodeRsp_frame (h : RspHeader) (s : State) :
    (decodeRsp h s).2 = { s with dir := (decodeRsp h s).2.dir } := by
  obtain ⟨-, he⟩ | ⟨-, -, -, he⟩ | ⟨-, -, -, he⟩ | ⟨-, -, he⟩ := decodeRsp_cases h s <;> rw [he]

/-- A candidate that needs more bytes is left as it is (R133, R136). -/
theorem decodeCandidate_kept_of_needsMoreBytes {s : State} {n : Nat}
    (h : (decodeCandidate s).1 = .needsMoreBytes n) : (decodeCandidate s).2 = s := by
  obtain ⟨_, -, -, he⟩ | ⟨-, -, he⟩ | ⟨o, t, he, ho, -⟩ := decodeCandidate_cases s
  · rw [he]
  · rw [he]
  · rw [he] at h
    obtain ⟨rfl, -⟩ | ⟨m, rfl, -⟩ := ho
    · exact FrameOutcome.noConfusion h
    · exact FrameOutcome.noConfusion h

/-- No response candidate is read as a request, which alone writes `LASTREG` (R132). -/
theorem decodeCandidate_lastReg_of_response {s : State} (hd : s.dir = .expectResponse) :
    (decodeCandidate s).2.lastReg = s.lastReg := by
  obtain ⟨-, he⟩ | ⟨h, -, -, he⟩ := decodeCandidate_expectResponse hd
  · rw [he]
  · rw [he, decodeRsp_frame]

/-- Only a byte count of 0 makes `SERVICE` read a response candidate as a request (R135, R154). -/
theorem service_lastReg_of_response {s : State} (hd : s.dir = .expectResponse)
    (hbyte : Memory.byte s.acc 2 ≠ some 0) : (service s).lastReg = s.lastReg := by
  have hne : (decodeCandidate s).1 ≠ .directionWrong := fun hw =>
    hbyte ((onlyZeroByteCountIsDirectionWrong s).mp hw).2
  rw [service_of_ne_directionWrong hne, settle_lastReg, decodeCandidate_lastReg_of_response hd]

/-! ### The frame of each instruction that stores to no memory -/

section
variable {s t : State}

theorem exec_eof_frame (h : exec .eof s = .next t) : t = { s with run := t.run } := by
  obtain ⟨-, rfl⟩ := exec_next h
  rfl

theorem exec_req_frame {f : ReqFrame} (h : exec (.req f) s = .next t) :
    t = { s with lastReg := t.lastReg, out := t.out, dir := t.dir } := by
  have hn : t = (decodeReq f s).2 := exec_next h
  rw [hn]
  exact decodeReq_frame f s

theorem exec_rsp_frame {r : RspHeader} (h : exec (.rsp r) s = .next t) :
    t = { s with dir := t.dir } := by
  have hn : t = (decodeRsp r s).2 := exec_next h
  rw [hn]
  exact decodeRsp_frame r s

/-- A halting event writes the run status and the cause only (R174, R175). -/
theorem exec_halting_frame {i : Instr} (hi : i = .eof ∨ i = .serr ∨ i = .kerr)
    (h : exec i s = .next t) : t = { s with run := t.run, cause := t.cause } := by
  obtain rfl | rfl | rfl := hi
  · obtain ⟨-, rfl⟩ := exec_next h; rfl
  · obtain ⟨-, rfl⟩ := exec_next h; rfl
  · obtain ⟨-, rfl⟩ := exec_next h; rfl

/-- Halting events and frame formats write neither memory, nor `RETRY`, `HOLD` and the parameters. -/
theorem exec_storeless_frame {i : Instr}
    (hi : i = .eof ∨ i = .serr ∨ i = .kerr ∨ (∃ f, i = .req f) ∨ (∃ r, i = .rsp r))
    (h : exec i s = .next t) :
    t = { s with dir := t.dir, lastReg := t.lastReg, run := t.run, cause := t.cause, out := t.out } := by
  obtain hi | hi | hi | ⟨f, rfl⟩ | ⟨r, rfl⟩ := hi
  · rw [exec_halting_frame (.inl hi) h]
  · rw [exec_halting_frame (.inr (.inl hi)) h]
  · rw [exec_halting_frame (.inr (.inr hi)) h]
  · rw [exec_req_frame h]
  · rw [exec_rsp_frame h]

/-! ### `RXB` -/

theorem exec_rxb_of_ne {b : Byte} (hr : s.run = .running) (hs : s.size < 300) (hne : s.size ≠ 299) :
    exec (.rxb b) s = .next (receive b s) := by
  have hfull : (receive b s).size ≠ 300 := by rw [receive_size]; omega
  rw [exec, execRxb_running b hr hs, if_neg hfull]

theorem exec_rxb_of_eq {b : Byte} (hr : s.run = .running) (hs : s.size = 299) :
    exec (.rxb b) s = .next (service (receive b s)) := by
  have hfull : (receive b s).size = 300 := by rw [receive_size, hs]
  rw [exec, execRxb_running b hr (by omega), if_pos hfull]

theorem exec_rxb_next_of_ne {b : Byte} (hne : s.size ≠ 299) (h : exec (.rxb b) s = .next t) :
    t = receive b s := by
  obtain ⟨-, -, ⟨-, ht⟩ | ⟨heq, -⟩⟩ := exec_next h
  · exact ht
  · exact absurd heq hne

/-- No instruction leads to a full accumulator: the `RXB` that fills it services it (R112). -/
theorem exec_size_le {i : Instr} (hs : s.size ≤ 299) (h : exec i s = .next t) : t.size ≤ 299 := by
  have hn := exec_next h
  cases i with
  | rst => subst hn; exact Nat.zero_le _
  | rxb b =>
    obtain ⟨-, -, ⟨hne, rfl⟩ | ⟨heq, rfl⟩⟩ := hn
    · rw [receive_size]; omega
    · exact service_size_le (by rw [receive_size]; omega)
  | gap =>
    obtain ⟨-, ⟨-, -, rfl⟩ | ⟨-, rfl⟩⟩ := hn
    · exact service_size_le (hs.trans (by decide))
    · exact hs
  | eof => obtain ⟨-, rfl⟩ := hn; exact hs
  | serr => obtain ⟨-, rfl⟩ := hn; exact hs
  | kerr => obtain ⟨-, rfl⟩ := hn; exact hs
  | req f => rw [exec_req_frame h]; exact hs
  | rsp r => rw [exec_rsp_frame h]; exact hs

end

/-! ### The obligations -/

/-- Settles O14: below 299 the event is `receive`, at 299 `SERVICE` follows, and neither leaves a full
accumulator. -/
theorem receiveAppendsTheByte : Obligations.ReceiveAppendsTheByte :=
  fun _ _ hr hs => ⟨exec_rxb_of_ne hr hs, exec_rxb_of_eq hr,
    fun _ h => Nat.lt_succ_of_le (exec_size_le (Nat.le_of_lt_succ hs) h)⟩

/-- Settles O15: at 300 the guard of `RXB` fails, and every instruction keeps the bound 299. -/
theorem receiveIntoFullAccumulatorIsRefused : Obligations.ReceiveIntoFullAccumulatorIsRefused := by
  refine ⟨fun s b hr hs => ?_, fun i s t hs h => exec_size_le hs h⟩
  have hfull : ¬ s.size < cap := by rw [hs]; decide
  rw [exec, execRxb, whenRunning_running hr, if_neg hfull]

/-- Settles O17: the decoder asks for more bytes and writes nothing, so `SERVICE` sets `HOLD` and clears
`RETRY`, which stand so already. -/
theorem heldGapEqualsReinvokingTheDecoder : Obligations.HeldGapEqualsReinvokingTheDecoder := by
  intro s hj hretry hhold
  obtain ⟨-, n, hn⟩ := hj hhold
  have hne : (decodeCandidate s).1 ≠ .directionWrong := by rw [hn]; exact FrameOutcome.noConfusion
  calc service s
      = settle (.needsMoreBytes n) s := by
        rw [service_of_ne_directionWrong hne, hn, decodeCandidate_kept_of_needsMoreBytes hn]
    _ = { s with hold := true, retry := 0 } := settle_needsMoreBytes n s
    _ = s := by rw [← hhold, ← hretry]

/-- Settles O55, from the frame of each instruction. -/
theorem unwrittenStateIsKept : Obligations.UnwrittenStateIsKept := by
  refine ⟨fun s t b hne h => ?_, fun s t i hi h => ?_, fun s t i hi h => ?_, fun s t h => ?_,
    fun s t f h => ?_, fun s t r h => ?_⟩
  · have hbyte (a : Nat) := append_byte s.acc b a
    rw [exec_rxb_next_of_ne hne h]
    exact ⟨fun a ha => (hbyte a).trans (if_neg ha), (hbyte s.size).trans (if_pos rfl), fun _ => rfl,
      rfl, rfl, rfl, rfl, rfl, rfl, rfl⟩
  · rw [exec_storeless_frame hi h]
    exact ⟨fun _ => rfl, fun _ => rfl, rfl, rfl, rfl⟩
  · rw [exec_halting_frame hi h]
    exact ⟨rfl, rfl, rfl⟩
  · rw [exec_eof_frame h]
  · rw [exec_req_frame h]
    exact ⟨rfl, rfl⟩
  · rw [exec_rsp_frame h]
    exact ⟨rfl, rfl, rfl, rfl⟩

/-- Settles O56: `GAP` is `SERVICE`, by what that leaves alone, or no change at all. -/
theorem serviceKeepsStatusAndParameters : Obligations.ServiceKeepsStatusAndParameters := by
  intro s t h
  obtain ⟨-, ⟨-, hfree, rfl⟩ | ⟨-, rfl⟩⟩ := exec_next h
  · obtain ⟨hrun, hcause, hcfg, -⟩ := service_keeps s
    exact ⟨hrun, hcause, hcfg, fun hheld => absurd (hfree.symm.trans hheld) Bool.false_ne_true,
      .inl (service_retry s), service_lastReg_of_response⟩
  · exact ⟨rfl, rfl, rfl, fun _ => rfl, .inr rfl, fun _ _ => rfl⟩

/-- Settles O12: the values are those of `resetRegisters`. -/
theorem resetWritesTheListedValues : Obligations.ResetWritesTheListedValues :=
  fun _ => rfl

/-- Settles O16, by the guard of `GAP`. -/
theorem gapServicesPendingBytes : Obligations.GapServicesPendingBytes := by
  refine fun s hr => ⟨fun hpending => ?_, fun hidle => ?_⟩
  · rw [exec, execGap_running hr, if_pos hpending]
  · have hguard : ¬(0 < s.size ∧ s.hold = false) := by
      rintro ⟨hpos, hfree⟩
      obtain hempty | hheld := hidle
      · exact hpos.ne' hempty
      · exact Bool.false_ne_true (hfree.symm.trans hheld)
    rw [exec, execGap_running hr, if_neg hguard]

/-- Settles O19: on a running core each event is `raiseFatal` of its cause. -/
theorem fatalEventsRecordTheirCause : Obligations.FatalEventsRecordTheirCause :=
  fun _ hr => ⟨whenRunning_running hr _, whenRunning_running hr _⟩

end Sys2Proof.Machine
end

section
/-!
PROOFS. The decoder statements (42_decoder.md): what `DECODE_REQ` and `DECODE_RSP` answer case by case, the
fingerprint, and the bounds of the frame length and of the outcomes.
-/

namespace Sys2Proof.Machine

/-! ### The command dictionary (R6, R134) -/

/-- In a dictionary with at most one entry per key, the first entry found is the only one. -/
theorem lookup_eq_some_iff_mem {l : List (Byte × Half)} {k : Byte} {v : Half}
    (hl : (l.map Prod.fst).Nodup) : l.lookup k = some v ↔ (k, v) ∈ l := by
  rw [List.lookup_eq_some_iff]
  constructor
  · rintro ⟨before, after, rfl, -⟩
    simp
  · intro hmem
    obtain ⟨before, after, rfl⟩ := List.append_of_mem hmem
    refine ⟨before, after, rfl, fun p hp => bne_iff_ne.mpr ?_⟩
    rw [List.map_append, List.map_cons, List.nodup_append'] at hl
    obtain ⟨-, -, hdisjoint⟩ := hl
    rintro rfl
    exact hdisjoint (List.mem_map_of_mem hp) List.mem_cons_self

/-- The limits of a legal dictionary are its entries (log entry 7). -/
theorem cmdMax_eq_some_iff {c : Config} {fc : Byte} {max : Half} (hc : c.wf = true) :
    cmdMax c fc = some max ↔ (fc, max) ∈ c.cmdMax := by
  simp only [Config.wf, Bool.and_eq_true, decide_eq_true_eq] at hc
  exact lookup_eq_some_iff_mem hc.2

theorem cmdMax_eq_none {c : Config} {fc : Byte} (h : ∀ max, (fc, max) ∉ c.cmdMax) :
    cmdMax c fc = none := by
  refine List.lookup_eq_none_iff.mpr fun p hp => bne_iff_ne.mpr ?_
  rintro rfl
  exact h p.2 hp

section
variable {c : Config} {f : ReqFrame}

theorem countWarning_of_none (h : cmdMax c f.functionCode = none) : countWarning c f = [] := by
  rw [countWarning, h]

/-- The comparison with the limit is unsigned and strict (R134). -/
theorem countWarning_of_some {max : Half} (h : cmdMax c f.functionCode = some max) :
    countWarning c f =
      if max.toNat < f.registerCount.toNat then
        [.warn .countExceedsMax f.functionCode f.registerCount max]
      else [] := by
  rw [countWarning, h]
  rfl

/-- At most one record, and it is a `Warn` (R130, R134). -/
theorem countWarning_cases (c : Config) (f : ReqFrame) :
    countWarning c f = [] ∨
    ∃ max, countWarning c f = [.warn .countExceedsMax f.functionCode f.registerCount max] := by
  cases hm : cmdMax c f.functionCode with
  | none => exact .inl (countWarning_of_none hm)
  | some max =>
    rw [countWarning_of_some hm]
    split
    · exact .inr ⟨max, rfl⟩
    · exact .inl rfl

end

/-! ### Completion (R140) -/

theorem completion_eq_done_iff {len frameLen : Nat} :
    completion len frameLen = .done ↔ len = frameLen := by
  obtain ⟨hl, he⟩ | ⟨hl, he⟩ := completion_cases len frameLen
  · exact ⟨fun _ => hl, fun _ => he⟩
  · rw [he]
    exact ⟨nofun, fun heq => absurd heq hl⟩

theorem completion_eq_hasTrailingBytes_iff {len frameLen n : Nat} (h : frameLen ≤ len) :
    completion len frameLen = .hasTrailingBytes n ↔ len = frameLen + n ∧ 1 ≤ n := by
  obtain ⟨hl, he⟩ | ⟨hl, he⟩ := completion_cases len frameLen
  · rw [he]
    exact ⟨nofun, fun hn => by omega⟩
  · rw [he, FrameOutcome.hasTrailingBytes.injEq]
    omega

theorem completion_ne_needsMoreBytes (len frameLen n : Nat) :
    completion len frameLen ≠ .needsMoreBytes n := by
  obtain ⟨-, he⟩ | ⟨-, he⟩ := completion_cases len frameLen
  · rw [he]; exact FrameOutcome.noConfusion
  · rw [he]; exact FrameOutcome.noConfusion

/-! ### The fingerprint (R139) -/

/-- A read compares byte by byte. -/
theorem read_eq_iff {m : Memory} {i : Nat} {l : List Byte} :
    Memory.read m i l.length = l ↔ ∀ k, k < l.length → Memory.byte m (i + k) = l[k]? := by
  rw [List.ext_getElem?_iff]
  refine forall_congr' fun k => ?_
  change Memory.byte (Memory.read m i l.length) k = l[k]? ↔ _
  rw [read_byte]
  by_cases hk : k < l.length
  · simp [hk]
  · simp [hk]

theorem fpMatch_iff (s : State) :
    fpMatch s = true ↔
      (8 ≤ s.prevLen ∧ prevFingerprint s = fpReq) ∧ (15 ≤ s.size ∧ accFingerprint s = fpRsp) := by
  simp only [fpMatch, Bool.and_eq_true, decide_eq_true_eq, beq_iff_eq]

theorem bugTolerance_iff (s : State) :
    bugTolerance s = true ↔ crcChk s.acc = true ∧ fpMatch s = true :=
  Bool.and_eq_true_iff

/-! ### The effective byte count (R76, R137) -/

section
variable {h : RspHeader} {s : State}

theorem effectiveByteCount_of_le (hle : h.byteCount.toNat + 5 ≤ s.size) :
    effectiveByteCount h s = some h.byteCount.toNat :=
  if_neg (Nat.not_lt.mpr hle)

theorem effectiveByteCount_of_bugTolerance (hlt : s.size < h.byteCount.toNat + 5)
    (hb : bugTolerance s = true) : effectiveByteCount h s = some (s.size - 5) :=
  (if_pos hlt).trans (if_pos hb)

theorem effectiveByteCount_of_incomplete (hlt : s.size < h.byteCount.toNat + 5)
    (hb : bugTolerance s = false) : effectiveByteCount h s = none :=
  (if_pos hlt).trans (if_neg (by rw [hb]; exact Bool.false_ne_true))

/-- An effective byte count fits the candidate, and is that of the header or an overridden one, which is
10 to 254. -/
theorem effectiveByteCount_some {bc : Nat} (he : effectiveByteCount h s = some bc) :
    bc + 5 ≤ s.size ∧ (bc = h.byteCount.toNat ∨ 10 ≤ bc ∧ bc < h.byteCount.toNat) := by
  by_cases hlt : s.size < h.byteCount.toNat + 5
  · cases hb : bugTolerance s with
    | false =>
      rw [effectiveByteCount_of_incomplete hlt hb] at he
      exact nomatch he
    | true =>
      have hsize := size_of_bugTolerance hb
      rw [effectiveByteCount_of_bugTolerance hlt hb, Option.some.injEq] at he
      omega
  · have hle := Nat.le_of_not_lt hlt
    rw [effectiveByteCount_of_le hle, Option.some.injEq] at he
    omega

theorem size_lt_of_effectiveByteCount_none (he : effectiveByteCount h s = none) :
    s.size < h.byteCount.toNat + 5 := by
  by_contra hlt
  rw [effectiveByteCount_of_le (Nat.le_of_not_lt hlt)] at he
  exact nomatch he

end

/-! ### `DECODE_REQ` and `DECODE_RSP`, by the case (R132, R135, R137) -/

section
variable {f : ReqFrame} {h : RspHeader} {s : State}

theorem decodeReq_of_lt (hs : s.size < 8) : decodeReq f s = (.needsMoreBytes (8 - s.size), s) :=
  if_pos hs

theorem decodeReq_of_le (hs : 8 ≤ s.size) :
    decodeReq f s =
      (completion s.size 8,
        { s with lastReg := f.startRegister, out := s.out ++ countWarning s.cfg f,
                 dir := .expectResponse }) :=
  if_neg (Nat.not_lt.mpr hs)

theorem byteCount_ne_zero_iff : h.byteCount ≠ 0 ↔ 1 ≤ h.byteCount.toNat := by
  rw [Nat.one_le_iff_ne_zero, ne_eq, ne_eq, ← BitVec.toNat_inj]
  rfl

theorem decodeRsp_of_zero (h0 : h.byteCount = 0) : decodeRsp h s = (.directionWrong, s) :=
  if_pos h0

theorem decodeRsp_of_effectiveByteCount {bc : Nat} (h0 : h.byteCount ≠ 0)
    (he : effectiveByteCount h s = some bc) :
    decodeRsp h s = (completion s.size (bc + 5), { s with dir := .expectRequest }) := by
  rw [decodeRsp, if_neg h0, he]
  rfl

theorem decodeRsp_of_effectiveByteCount_none (h0 : h.byteCount ≠ 0)
    (he : effectiveByteCount h s = none) :
    decodeRsp h s = (.needsMoreBytes (h.byteCount.toNat + 5 - s.size), s) := by
  rw [decodeRsp, if_neg h0, he]
  rfl

theorem decodeRsp_of_le (hpos : 1 ≤ h.byteCount.toNat) (hle : h.byteCount.toNat + 5 ≤ s.size) :
    decodeRsp h s =
      (completion s.size (h.byteCount.toNat + 5), { s with dir := .expectRequest }) :=
  decodeRsp_of_effectiveByteCount (byteCount_ne_zero_iff.mpr hpos) (effectiveByteCount_of_le hle)

/-- The whole candidate is one frame (R137). -/
theorem decodeRsp_of_bugTolerance (hpos : 1 ≤ h.byteCount.toNat)
    (hlt : s.size < h.byteCount.toNat + 5) (hb : crcChk s.acc = true ∧ fpMatch s = true) :
    decodeRsp h s = (.done, { s with dir := .expectRequest }) := by
  have hb := (bugTolerance_iff s).mpr hb
  have hwhole : s.size = s.size - 5 + 5 := by
    have := size_of_bugTolerance hb
    omega
  rw [decodeRsp_of_effectiveByteCount (byteCount_ne_zero_iff.mpr hpos)
    (effectiveByteCount_of_bugTolerance hlt hb), completion_eq_done_iff.mpr hwhole]

theorem decodeRsp_of_incomplete (hpos : 1 ≤ h.byteCount.toNat)
    (hlt : s.size < h.byteCount.toNat + 5) (hb : ¬(crcChk s.acc = true ∧ fpMatch s = true)) :
    decodeRsp h s = (.needsMoreBytes (h.byteCount.toNat + 5 - s.size), s) :=
  decodeRsp_of_effectiveByteCount_none (byteCount_ne_zero_iff.mpr hpos)
    (effectiveByteCount_of_incomplete hlt (Bool.eq_false_iff.mpr (mt (bugTolerance_iff s).mp hb)))

/-- `REQ` is what `DECODE_REQ` writes; its outcome goes to the controller (R33). -/
theorem exec_req_of_decodeReq {o : FrameOutcome} {t : State} (he : decodeReq f s = (o, t)) :
    (decodeReq f s).1 = o ∧ exec (.req f) s = .next t := by
  rw [exec, execReq, he]
  exact ⟨rfl, rfl⟩

/-- `RSP` is what `DECODE_RSP` writes; its outcome goes to the controller (R33). -/
theorem exec_rsp_of_decodeRsp {o : FrameOutcome} {t : State} (he : decodeRsp h s = (o, t)) :
    (decodeRsp h s).1 = o ∧ exec (.rsp h) s = .next t := by
  rw [exec, execRsp, he]
  exact ⟨rfl, rfl⟩

end

/-! ### `DECODE`, keyed by `DIR` (R130) -/

theorem decode_request_iff {bytes : List Byte} {f : ReqFrame} :
    decode (.frame .expectRequest bytes) = .ok (.req f) ↔ parseReq bytes = some f := by
  cases hp : parseReq bytes with
  | none => simp [decode, decodeFrame, hp]
  | some g => simp [decode, decodeFrame, hp]

theorem decode_response_iff {bytes : List Byte} {h : RspHeader} :
    decode (.frame .expectResponse bytes) = .ok (.rsp h) ↔ parseRsp bytes = some h := by
  cases hp : parseRsp bytes with
  | none => simp [decode, decodeFrame, hp]
  | some g => simp [decode, decodeFrame, hp]

section
variable {s : State}

theorem decodeCandidate_short_request (hd : s.dir = .expectRequest) (hs : s.size < 8) :
    decodeCandidate s = (.needsMoreBytes (8 - s.size), s) := by
  rw [decodeCandidate, hd, (parseReq_eq_none_iff _).mpr hs]
  rfl

theorem decodeCandidate_short_response (hd : s.dir = .expectResponse) (hs : s.size < 3) :
    decodeCandidate s = (.needsMoreBytes (3 - s.size), s) := by
  rw [decodeCandidate, hd, (parseRsp_eq_none_iff _).mpr hs]
  rfl

theorem decodeCandidate_of_decode_request {f : ReqFrame} (hd : s.dir = .expectRequest)
    (hf : decode (.frame s.dir s.acc) = .ok (.req f)) : decodeCandidate s = decodeReq f s := by
  rw [hd, decode_request_iff] at hf
  rw [decodeCandidate, hd, hf]

theorem decodeCandidate_of_decode_response {h : RspHeader} (hd : s.dir = .expectResponse)
    (hh : decode (.frame s.dir s.acc) = .ok (.rsp h)) : decodeCandidate s = decodeRsp h s := by
  rw [hd, decode_response_iff] at hh
  rw [decodeCandidate, hd, hh]

/-- The trace gains at most one `Warn` record (R130). -/
theorem decodeCandidate_out (s : State) :
    (decodeCandidate s).2.out = s.out ∨
    ∃ fc count max, (decodeCandidate s).2.out = s.out ++ [.warn .countExceedsMax fc count max] := by
  cases hd : s.dir with
  | expectRequest =>
    obtain ⟨-, he⟩ | ⟨f, -, -, he⟩ := decodeCandidate_expectRequest hd
    · exact .inl (by rw [he])
    · rw [he]
      obtain hw | ⟨max, hw⟩ := countWarning_cases s.cfg f
      · exact .inl (by rw [hw, List.append_nil])
      · exact .inr ⟨_, _, max, by rw [hw]⟩
  | expectResponse =>
    obtain ⟨-, he⟩ | ⟨h, -, -, he⟩ := decodeCandidate_expectResponse hd
    · exact .inl (by rw [he])
    · exact .inl (by rw [he, decodeRsp_frame])

end

/-! ### Frame lengths and missing counts (R140, R141) -/

/-- `len` is the length of the frame that the decoder completes at the front of the candidate: 8 bytes for
a request, 5 more than the effective byte count for a response (R140), which makes 6 to 260 (R141). -/
structure IsFrameLength (s : State) (len : Nat) : Prop where
  le_size : len ≤ s.size
  request : s.dir = .expectRequest → len = 8
  response : s.dir = .expectResponse → ∃ h bc,
    decode (.frame s.dir s.acc) = .ok (.rsp h) ∧ effectiveByteCount h s = some bc ∧ len = bc + 5
  six_le : 6 ≤ len
  le_260 : len ≤ 260

/-- What R141 says of the count of missing bytes, and of the candidates that have one. -/
structure IsMissingCount (s : State) (n : Nat) : Prop where
  pos : 1 ≤ n
  le_257 : n ≤ 257
  request : s.dir = .expectRequest → s.size < 8
  response : s.dir = .expectResponse → s.size < 260

/-- Everything the decoder can do, by the length of the frame: it asks for more bytes or rejects the
direction and writes nothing, or it completes a frame and flips `DIR` (R140). -/
theorem decodeCandidate_by_frameLength (s : State) :
    (∃ n, decodeCandidate s = (.needsMoreBytes n, s) ∧ IsMissingCount s n) ∨
    decodeCandidate s = (.directionWrong, s) ∨
    ∃ len t, decodeCandidate s = (completion s.size len, t) ∧ IsFrameLength s len ∧
      t.dir = flipDir s.dir := by
  cases hd : s.dir with
  | expectRequest =>
    have hne : s.dir ≠ .expectResponse := by rw [hd]; exact Dir.noConfusion
    obtain ⟨hlt, he⟩ | ⟨f, -, hle, he⟩ := decodeCandidate_expectRequest hd
    · exact .inl ⟨_, he, by omega, by omega, fun _ => hlt, fun hr => absurd hr hne⟩
    · exact .inr (.inr ⟨8, _, he,
        ⟨hle, fun _ => rfl, fun hr => absurd hr hne, by decide, by decide⟩, rfl⟩)
  | expectResponse =>
    have hne : s.dir ≠ .expectRequest := by rw [hd]; exact Dir.noConfusion
    obtain ⟨hlt, he⟩ | ⟨h, hp, hle, he⟩ := decodeCandidate_expectResponse hd
    · exact .inl ⟨_, he, by omega, by omega, fun hr => absurd hr hne, fun _ => by omega⟩
    · by_cases h0 : h.byteCount = 0
      · exact .inr (.inl (he.trans (decodeRsp_of_zero h0)))
      · have hbyte := h.byteCount.isLt
        have hpos := byteCount_ne_zero_iff.mp h0
        cases hbc : effectiveByteCount h s with
        | none =>
          have hlt := size_lt_of_effectiveByteCount_none hbc
          exact .inl ⟨_, he.trans (decodeRsp_of_effectiveByteCount_none h0 hbc), by omega, by omega,
            fun hr => absurd hr hne, fun _ => by omega⟩
        | some bc =>
          obtain ⟨hfit, hbound⟩ := effectiveByteCount_some hbc
          have hdec : decode (.frame s.dir s.acc) = .ok (.rsp h) := by
            rw [hd]; exact decode_response_iff.mpr hp
          exact .inr (.inr ⟨_, _, he.trans (decodeRsp_of_effectiveByteCount h0 hbc),
            ⟨hfit, fun hr => absurd hr hne, fun _ => ⟨h, bc, hdec, hbc, rfl⟩, by omega, by omega⟩,
            rfl⟩)

section
variable {s : State} {n : Nat}

theorem isMissingCount_of_needsMoreBytes (h : (decodeCandidate s).1 = .needsMoreBytes n) :
    IsMissingCount s n := by
  obtain ⟨m, he, hm⟩ | he | ⟨len, t, he, -, -⟩ := decodeCandidate_by_frameLength s
  · rw [he] at h
    rwa [← FrameOutcome.needsMoreBytes.inj h]
  · rw [he] at h
    exact nomatch h
  · rw [he] at h
    exact absurd h (completion_ne_needsMoreBytes _ _ n)

/-- A completed frame is `SIZE` less the remaining count, and `DIR` is flipped (R140). -/
theorem isFrameLength_of_completes
    (h : ((decodeCandidate s).1 = .done ∧ n = 0) ∨
      ((decodeCandidate s).1 = .hasTrailingBytes n ∧ 1 ≤ n)) :
    ∃ len, IsFrameLength s len ∧ s.size = len + n ∧ (decodeCandidate s).2.dir = flipDir s.dir := by
  obtain ⟨m, he, -⟩ | he | ⟨len, t, he, hlen, hdir⟩ := decodeCandidate_by_frameLength s
  · simp [he] at h
  · simp [he] at h
  · rw [he] at h ⊢
    refine ⟨len, hlen, ?_, hdir⟩
    obtain ⟨hdone, rfl⟩ | ⟨htrail, -⟩ := h
    · exact completion_eq_done_iff.mp hdone
    · exact ((completion_eq_hasTrailingBytes_iff hlen.le_size).mp htrail).1

theorem one_le_of_hasTrailingBytes (h : (decodeCandidate s).1 = .hasTrailingBytes n) : 1 ≤ n := by
  obtain ⟨m, he, -⟩ | he | ⟨len, t, he, hlen, -⟩ := decodeCandidate_by_frameLength s
  · rw [he] at h
    exact nomatch h
  · rw [he] at h
    exact nomatch h
  · rw [he] at h
    exact ((completion_eq_hasTrailingBytes_iff hlen.le_size).mp h).2

theorem decodeCandidate_kept_of_directionWrong (h : (decodeCandidate s).1 = .directionWrong) :
    (decodeCandidate s).2 = s := by
  obtain ⟨m, he, -⟩ | he | ⟨len, t, he, -, -⟩ := decodeCandidate_by_frameLength s
  · rw [he]
  · rw [he]
  · rw [he] at h
    exact absurd h (completion_ne_directionWrong _ _)

end

/-! ### The obligations -/

/-- Settles O29: `DECODE_REQ` by the size of the candidate, and its warning by the dictionary's limit. -/
theorem requestWritesStartRegisterAndDirection : Obligations.RequestWritesStartRegisterAndDirection := by
  refine ⟨fun c fc max hc => cmdMax_eq_some_iff hc, fun c fc h => cmdMax_eq_none h,
    fun f s => ⟨fun hs => exec_req_of_decodeReq (decodeReq_of_lt hs), fun hs => ?_⟩⟩
  obtain ⟨hout, hexec⟩ := exec_req_of_decodeReq (decodeReq_of_le (f := f) hs)
  refine ⟨hout, ?_⟩
  cases hm : cmdMax s.cfg f.functionCode with
  | none => rw [hexec, countWarning_of_none hm]
  | some max => rw [hexec, countWarning_of_some hm]

/-- Settles O31: the tests of `DECODE_RSP` in their order, its integer comparison turned into the one over
naturals that the model makes (R94). -/
theorem responseCompletesByItsByteCount : Obligations.ResponseCompletesByItsByteCount := by
  refine fun h s => ⟨decodeCandidate_short_response, fun h0 => ?_, fun hpos hle => ?_,
    fun hpos hlt hcrc hfp => ?_, fun hpos hlt hb => ?_⟩
  · exact exec_rsp_of_decodeRsp (decodeRsp_of_zero (BitVec.eq_of_toNat_eq h0))
  · exact exec_rsp_of_decodeRsp (decodeRsp_of_le hpos (by omega))
  · exact exec_rsp_of_decodeRsp (decodeRsp_of_bugTolerance hpos (by omega) ⟨hcrc, hfp⟩)
  · exact exec_rsp_of_decodeRsp (decodeRsp_of_incomplete hpos (by omega) hb)

/-- Settles O32: `DECODE` is `DECODE_RSP` of the header at the front, whose byte count the candidate does
not reach. -/
theorem bugToleranceAcceptsTheWholeCandidate : Obligations.BugToleranceAcceptsTheWholeCandidate := by
  intro s h hd hdec hpos hlt
  rw [decodeCandidate_of_decode_response hd hdec]
  exact ⟨decodeRsp_of_bugTolerance hpos (by omega),
    fun hb => ⟨_, decodeRsp_of_incomplete hpos (by omega) hb⟩⟩

/-- Settles O33: each fingerprint is a read of its range, which compares byte by byte. -/
theorem fingerprintComparesTheListedBytes : Obligations.FingerprintComparesTheListedBytes := by
  intro s
  rw [fpMatch_iff]
  exact and_congr (and_congr_right fun _ => read_eq_iff (l := fpReq))
    (and_congr_right fun _ => read_eq_iff (l := fpRsp))

/-- Settles O34: the frame of `DECODE`, and the one record a request may append. -/
theorem decoderWritesOnlyItsRegisters : Obligations.DecoderWritesOnlyItsRegisters := by
  refine ⟨fun _ _ => decodeCandidate_of_decode_request, fun _ _ => decodeCandidate_of_decode_response,
    fun s t o h => ?_⟩
  have hframe := decodeCandidate_frame s
  have hout := decodeCandidate_out s
  rw [h] at hframe hout
  exact ⟨hframe, hout⟩

/-- Settles O36: completion is `completion` of a frame length, and no other outcome writes. -/
theorem directionFlipsExactlyAtCompletion : Obligations.DirectionFlipsExactlyAtCompletion := by
  intro s t o h
  obtain ⟨rfl, rfl⟩ : (decodeCandidate s).1 = o ∧ (decodeCandidate s).2 = t := by simp [h]
  refine ⟨fun n hn => ?_, fun h0 => ?_, fun n => decodeCandidate_kept_of_needsMoreBytes,
    decodeCandidate_kept_of_directionWrong⟩
  · obtain ⟨len, hlen, hsize, hdir⟩ := isFrameLength_of_completes hn
    refine ⟨hdir, fun hd => by rw [hsize, hlen.request hd], fun hd => ?_⟩
    obtain ⟨r, bc, hdec, hbc, rfl⟩ := hlen.response hd
    exact ⟨r, bc, hdec, hbc, hsize⟩
  · exact absurd (one_le_of_hasTrailingBytes h0) (by decide)

/-- Settles O37: a frame has 6 to 260 bytes, 8 if it is a request, a missing count is bounded by the byte
count, and the fingerprint needs 15 bytes. -/
theorem outcomesAreBounded : Obligations.OutcomesAreBounded := by
  refine ⟨fun s n _ h => ?_, fun s n hs h => ?_, fun s _ h => ?_,
    fun s hs => Nat.lt_succ_of_le (service_size_le hs.le), fun s b hlt hfp => ?_,
    fun s t hd ha hp _ => decodeCandidate_outcome_congr ha hp hd⟩
  · obtain ⟨hpos, hle, hreq, hrsp⟩ := isMissingCount_of_needsMoreBytes h
    exact ⟨hpos, hle, hreq, hrsp⟩
  · have hpos := one_le_of_hasTrailingBytes h
    obtain ⟨len, ⟨-, hreq, -, h6, h260⟩, hsize, -⟩ := isFrameLength_of_completes (.inr ⟨h, hpos⟩)
    have hlen : s.size - n = len := by rw [hsize, Nat.add_sub_cancel]
    rw [hlen]
    exact ⟨hpos, by omega, by omega, h6, hreq, h260⟩
  · obtain ⟨len, ⟨-, hreq, -, h6, h260⟩, hsize, -⟩ := isFrameLength_of_completes (.inl ⟨h, rfl⟩)
    rw [hsize, Nat.add_zero]
    exact ⟨hreq, h6, h260⟩
  · have hsize := size_of_fpMatch hfp
    have hbyte := b.isLt
    omega

/-- Settles O30: `DECODE` finds no header to parse. -/
theorem shortCandidateNeedsMoreBytes : Obligations.ShortCandidateNeedsMoreBytes :=
  fun _ => ⟨decodeCandidate_short_request, decodeCandidate_short_response⟩

end Sys2Proof.Machine
end

section
/-!
PROOFS. The controller statements (43_controller.md): the records of `ACCEPT`, the outcomes of `SERVICE`, how
`DIR` changes over one, and that what leaves the accumulator is exactly the frame reported.
-/

namespace Sys2Proof.Machine

/-! ### `ACCEPT`, by the CRC verdict (R156) -/

section
variable {ignoreCrc : Bool} {frame : List Byte}

theorem acceptRecords_of_valid (hv : crcChk frame = true) :
    acceptRecords ignoreCrc frame = [.emit frame, .diag frame true] := by
  simp [acceptRecords, hv]

theorem acceptRecords_of_dropped (hv : crcChk frame = false) (hi : ignoreCrc = false) :
    acceptRecords ignoreCrc frame = [.diag frame false] := by
  simp [acceptRecords, hv, hi]

theorem acceptRecords_of_ignored (hv : crcChk frame = false) (hi : ignoreCrc = true) :
    acceptRecords ignoreCrc frame = [.emit frame, .diag frame false] := by
  simp [acceptRecords, hv, hi]

/-- Every accepted frame has its `Diag`, as the last record. -/
theorem acceptRecords_ends_with_diag (ignoreCrc : Bool) (frame : List Byte) :
    ∃ before, acceptRecords ignoreCrc frame = before ++ [.diag frame (crcChk frame)] :=
  ⟨_, rfl⟩

end

section
variable {e : Nat} {s : State}

theorem accept_of_valid (hv : crcChk (s.acc.take e) = true) :
    accept e s =
      { s with
        prev := s.acc.take e
        out := s.out ++ acceptRecords s.cfg.ignoreCrc (s.acc.take e) } := by
  rw [accept, read_zero, if_pos hv, State.put]

theorem accept_of_invalid (hv : crcChk (s.acc.take e) = false) :
    accept e s = { s with out := s.out ++ acceptRecords s.cfg.ignoreCrc (s.acc.take e) } := by
  rw [accept, read_zero, hv, if_neg Bool.false_ne_true, State.put]

end

/-! ### `SERVICE`, by the outcome of its decodes (R150 to R155) -/

section
variable {s t : State}

theorem service_eq_settle_of_decodeCandidate {o : FrameOutcome} (h : decodeCandidate s = (o, t))
    (ho : o ≠ .directionWrong) : service s = settle o t := by
  have hne : (decodeCandidate s).1 ≠ .directionWrong := by rw [h]; exact ho
  rw [service_of_ne_directionWrong hne, h]

/-- A rejected direction leaves the state as it was, so that a retry starts on the same bytes (R154). -/
theorem eq_of_decodeCandidate_directionWrong (h : decodeCandidate s = (.directionWrong, t)) : t = s := by
  have hkept := decodeCandidate_kept_of_directionWrong (congrArg Prod.fst h)
  rwa [h] at hkept

theorem dir_of_directionWrong (h : (decodeCandidate s).1 = .directionWrong) : s.dir = .expectResponse :=
  ((onlyZeroByteCountIsDirectionWrong s).mp h).1

/-- A retry decodes under `ExpectRequest` (R154). -/
theorem retryFlipped_dir_of_directionWrong (h : (decodeCandidate s).1 = .directionWrong) :
    s.retryFlipped.dir = .expectRequest := by
  rw [retryFlipped_dir, dir_of_directionWrong h, flipDir]

theorem retry_ne_directionWrong (h : (decodeCandidate s).1 = .directionWrong) :
    (decodeCandidate s.retryFlipped).1 ≠ .directionWrong :=
  decodeCandidate_ne_directionWrong (retryFlipped_dir_of_directionWrong h)

theorem service_eq_service_retryFlipped (h : (decodeCandidate s).1 = .directionWrong)
    (hr : s.retry.val < 4) : service s = service s.retryFlipped :=
  service_of_directionWrong (Prod.ext h (decodeCandidate_kept_of_directionWrong h)) hr rfl

/-! ### `DIR` over a service (R140, R159) -/

theorem service_dir_of_ne_directionWrong (h : (decodeCandidate s).1 ≠ .directionWrong) :
    (service s).dir = (decodeCandidate s).2.dir := by
  rw [service_of_ne_directionWrong h, settle_dir]

theorem service_dir_of_needsMoreBytes {n : Nat} (h : (decodeCandidate s).1 = .needsMoreBytes n) :
    (service s).dir = s.dir := by
  have hne : (decodeCandidate s).1 ≠ .directionWrong := by rw [h]; exact FrameOutcome.noConfusion
  rw [service_dir_of_ne_directionWrong hne, decodeCandidate_kept_of_needsMoreBytes h]

/-- A service that accepts a frame at its first decode flips `DIR`. -/
theorem service_dir_of_completes
    (h : (decodeCandidate s).1 = .done ∨ ∃ n, (decodeCandidate s).1 = .hasTrailingBytes n) :
    (service s).dir = flipDir s.dir := by
  obtain hd | ⟨n, hn⟩ := h
  · obtain ⟨-, -, -, hdir⟩ := isFrameLength_of_completes (.inl ⟨hd, rfl⟩)
    rw [service_dir_of_ne_directionWrong (by rw [hd]; exact FrameOutcome.noConfusion), hdir]
  · obtain ⟨-, -, -, hdir⟩ :=
      isFrameLength_of_completes (.inr ⟨hn, one_le_of_hasTrailingBytes hn⟩)
    rw [service_dir_of_ne_directionWrong (by rw [hn]; exact FrameOutcome.noConfusion), hdir]

end

/-! ### What leaves the accumulator is what is reported (R157) -/

/-- At most one record, and it is a `Warn` (R134). -/
def AtMostOneWarn (warns : List Record) : Prop :=
  warns = [] ∨ ∃ fc count max, warns = [.warn .countExceedsMax fc count max]

/-- From `s` to `t` the accumulator is kept and nothing is reported, or a non-empty frame is taken from its
front and the records of `ACCEPT` for exactly that frame are appended. -/
def TakesReportedFrame (s t : State) : Prop :=
  (t.out = s.out ∧ t.acc = s.acc) ∨
  ∃ frame, frame ≠ [] ∧ s.acc = frame ++ t.acc ∧
    t.out = s.out ++ acceptRecords s.cfg.ignoreCrc frame

/-- What any instruction but `RST` does to the trace and to the accumulator, which is `input` when the
instruction has stored its own byte: at most one `Warn`, then the frame it takes from `input`, if any. -/
def Reports (input : Memory) (s t : State) : Prop :=
  ∃ warns, AtMostOneWarn warns ∧
    TakesReportedFrame { s with acc := input, out := s.out ++ warns } t

/-- Accepting a front of the accumulator and keeping what is behind it. -/
theorem accept_takesReportedFrame {frame rest : List Byte} {s : State} (hne : frame ≠ [])
    (h : s.acc = frame ++ rest) :
    TakesReportedFrame s { accept frame.length s with acc := rest, retry := 0 } :=
  .inr ⟨frame, hne, h, by rw [accept_out, read_zero, h, List.take_left]⟩

theorem settle_takesReportedFrame {o : FrameOutcome} {s : State} (hs : 0 < s.size)
    (ho : OutcomeFits o s) : TakesReportedFrame s (settle o s) := by
  have hwhole := accept_takesReportedFrame (List.length_pos_iff.mp hs) (List.append_nil s.acc).symm
  cases o with
  | needsMoreBytes n => exact .inl ⟨rfl, rfl⟩
  | done => exact hwhole
  | hasTrailingBytes n =>
    have hfit : n + 6 ≤ s.acc.length := ho
    have hlen : (s.acc.take (s.acc.length - n)).length = s.acc.length - n :=
      List.length_take_of_le (Nat.sub_le _ _)
    have htakes := accept_takesReportedFrame (s := s)
      (List.length_pos_iff.mp (by rw [hlen]; omega))
      (List.take_append_drop (s.acc.length - n) s.acc).symm
    rw [hlen, ← compact_eq_drop s.acc n (by omega)] at htakes
    exact htakes
  | directionWrong => exact hwhole

/-- The records a decode appends (R130). -/
theorem decodeCandidate_out_warns (s : State) :
    ∃ warns, AtMostOneWarn warns ∧ (decodeCandidate s).2.out = s.out ++ warns := by
  obtain hout | ⟨fc, count, max, hout⟩ := decodeCandidate_out s
  · exact ⟨[], .inl rfl, by rw [hout, List.append_nil]⟩
  · exact ⟨_, .inr ⟨fc, count, max, rfl⟩, hout⟩

/-- A decode followed by the settling of its outcome. -/
theorem settle_decodeCandidate_reports {s : State} (hs : 0 < s.size) :
    Reports s.acc s (settle (decodeCandidate s).1 (decodeCandidate s).2) := by
  obtain ⟨warns, hw, hout⟩ := decodeCandidate_out_warns s
  have hframe := decodeCandidate_frame s
  have hacc : (decodeCandidate s).2.acc = s.acc := by rw [hframe]
  have hsize : 0 < (decodeCandidate s).2.size := by rwa [State.size, hacc]
  have htakes := settle_takesReportedFrame hsize (decodeCandidate_outcomeFits s)
  refine ⟨warns, hw, ?_⟩
  rwa [TakesReportedFrame, hout, hacc, decodeCandidate_cfg] at htakes

/-- A retry decodes the same bytes and has appended nothing, so the second decode accounts for all that
`SERVICE` does (R154). -/
theorem service_reports {s : State} (hs : 0 < s.size) : Reports s.acc s (service s) := by
  obtain ⟨-, he⟩ | ⟨-, -, -, -, he⟩ | ⟨-, -, -, he⟩ := service_cases s
  · rw [he]
    exact settle_decodeCandidate_reports hs
  · rw [he]
    exact settle_decodeCandidate_reports (s := s.retryFlipped) hs
  · rw [he]
    refine ⟨[], .inl rfl, ?_⟩
    rw [List.append_nil]
    exact settle_takesReportedFrame hs trivial

theorem reports_of_kept {input : Memory} {s t : State} (hout : t.out = s.out) (hacc : t.acc = input) :
    Reports input s t :=
  ⟨[], .inl rfl, .inl ⟨by rw [hout, List.append_nil], hacc⟩⟩

theorem decodeReq_reports (f : ReqFrame) (s : State) : Reports s.acc s (decodeReq f s).2 := by
  obtain ⟨-, he⟩ | ⟨-, he⟩ := decodeReq_cases f s
  · rw [he]
    exact reports_of_kept rfl rfl
  · rw [he]
    obtain hw | ⟨max, hw⟩ := countWarning_cases s.cfg f
    · exact ⟨_, .inl hw, .inl ⟨rfl, rfl⟩⟩
    · exact ⟨_, .inr ⟨_, _, max, hw⟩, .inl ⟨rfl, rfl⟩⟩

/-- Only `SERVICE` takes bytes from the accumulator, except that `RST` empties it. -/
theorem exec_reports {i : Instr} {s t : State} (hi : i ≠ .rst) (h : exec i s = .next t) :
    Reports (s.acc ++ bytesReceived i) s t := by
  have hn := exec_next h
  cases i with
  | rst => exact absurd rfl hi
  | rxb b =>
    obtain ⟨-, -, ⟨-, rfl⟩ | ⟨-, rfl⟩⟩ := hn
    · exact reports_of_kept rfl rfl
    · exact service_reports (s := receive b s) (by rw [receive_size]; exact Nat.succ_pos _)
  | gap =>
    rw [bytesReceived, List.append_nil]
    obtain ⟨-, ⟨hpos, -, rfl⟩ | ⟨-, rfl⟩⟩ := hn
    · exact service_reports hpos
    · exact reports_of_kept rfl rfl
  | eof => obtain ⟨-, rfl⟩ := hn; exact reports_of_kept rfl (List.append_nil _).symm
  | serr => obtain ⟨-, rfl⟩ := hn; exact reports_of_kept rfl (List.append_nil _).symm
  | kerr => obtain ⟨-, rfl⟩ := hn; exact reports_of_kept rfl (List.append_nil _).symm
  | req f =>
    rw [bytesReceived, List.append_nil]
    subst hn
    exact decodeReq_reports f s
  | rsp r =>
    rw [exec_rsp_frame h]
    exact reports_of_kept rfl (List.append_nil _).symm

/-! ### A first frame and what follows it (R140, R152, R153) -/

/-- `first` is exactly one frame of the direction `dir`: 8 bytes for a request, 5 more than its byte count,
which is not 0, for a response. -/
def IsFrameOf (dir : Dir) (first : List Byte) : Prop :=
  (dir = .expectRequest ∧ first.length = 8) ∨
  (dir = .expectResponse ∧ ∃ b, Memory.byte first 2 = some b ∧ b ≠ 0 ∧ first.length = b.toNat + 5)

theorem isFrameOf_of_forall_dir {dir : Dir} {first : List Byte}
    (hreq : dir = .expectRequest → first.length = 8)
    (hrsp : dir = .expectResponse →
      ∃ b, Memory.byte first 2 = some b ∧ b ≠ 0 ∧ first.length = b.toNat + 5) :
    IsFrameOf dir first := by
  cases dir with
  | expectRequest => exact .inl ⟨rfl, hreq rfl⟩
  | expectResponse => exact .inr ⟨rfl, hrsp rfl⟩

theorem IsFrameOf.length_pos {dir : Dir} {first : List Byte} (h : IsFrameOf dir first) :
    0 < first.length := by
  obtain ⟨-, hlen⟩ | ⟨-, b, -, -, hlen⟩ := h
  · rw [hlen]; decide
  · rw [hlen]; exact Nat.succ_pos _

theorem exists_parseReq_of_le {bytes : List Byte} (h : 8 ≤ bytes.length) :
    ∃ f, parseReq bytes = some f :=
  Option.ne_none_iff_exists'.mp (mt (parseReq_eq_none_iff bytes).mp (Nat.not_lt.mpr h))

theorem exists_parseRsp_of_le {bytes : List Byte} (h : 3 ≤ bytes.length) :
    ∃ r, parseRsp bytes = some r :=
  Option.ne_none_iff_exists'.mp (mt (parseRsp_eq_none_iff bytes).mp (Nat.not_lt.mpr h))

section
variable {s : State} {first : List Byte}

/-- The request at the front is read and completed whatever follows it (R132). -/
theorem decodeCandidate_glued_request {f : ReqFrame} (hd : s.dir = .expectRequest)
    (hp : parseReq first = some f) (hlen : first.length = 8) (rest : List Byte) :
    decodeCandidate { s with acc := first ++ rest } =
      (completion (first ++ rest).length first.length,
        { s with
          acc := first ++ rest, lastReg := f.startRegister,
          out := s.out ++ countWarning s.cfg f, dir := .expectResponse }) := by
  have hdec : decode (.frame s.dir (first ++ rest)) = .ok (.req f) := by
    rw [hd]; exact decode_request_iff.mpr (parseReq_append hp rest)
  have hle : 8 ≤ (first ++ rest).length := by rw [List.length_append]; omega
  rw [decodeCandidate_of_decode_request (s := { s with acc := first ++ rest }) hd hdec,
    decodeReq_of_le hle, hlen]

/-- The response at the front is read and completed whatever follows it: the candidate reaches its byte
count, so that the bug-tolerance rule is not asked (R135, R137). -/
theorem decodeCandidate_glued_response {r : RspHeader} (hd : s.dir = .expectResponse)
    (hp : parseRsp first = some r) (h0 : r.byteCount ≠ 0)
    (hlen : first.length = r.byteCount.toNat + 5) (rest : List Byte) :
    decodeCandidate { s with acc := first ++ rest } =
      (completion (first ++ rest).length first.length,
        { s with acc := first ++ rest, dir := .expectRequest }) := by
  have hdec : decode (.frame s.dir (first ++ rest)) = .ok (.rsp r) := by
    rw [hd]; exact decode_response_iff.mpr (parseRsp_append hp rest)
  have hle : r.byteCount.toNat + 5 ≤ (first ++ rest).length := by rw [List.length_append]; omega
  rw [decodeCandidate_of_decode_response (s := { s with acc := first ++ rest }) hd hdec,
    decodeRsp_of_le (byteCount_ne_zero_iff.mp h0) hle, hlen]

/-- The decoder writes the same registers whatever follows the first frame. -/
theorem decodeCandidate_glued (hf : IsFrameOf s.dir first) :
    ∃ t : State, ∀ rest, decodeCandidate { s with acc := first ++ rest } =
      (completion (first ++ rest).length first.length, { t with acc := first ++ rest }) := by
  obtain ⟨hd, hlen⟩ | ⟨hd, b, hb, h0, hlen⟩ := hf
  · obtain ⟨f, hp⟩ := exists_parseReq_of_le hlen.ge
    exact ⟨{ s with lastReg := f.startRegister, out := s.out ++ countWarning s.cfg f,
                     dir := .expectResponse }, decodeCandidate_glued_request hd hp hlen⟩
  · obtain ⟨r, hp⟩ := exists_parseRsp_of_le (bytes := first) (by omega)
    obtain rfl : r.byteCount = b := Option.some.inj ((byte_two_of_parseRsp hp).symm.trans hb)
    exact ⟨{ s with dir := .expectRequest }, decodeCandidate_glued_response hd hp h0 hlen⟩

end

/-- `ACCEPT` of the front of the accumulator does not look behind it. -/
theorem accept_glued (s : State) (first rest : List Byte) :
    accept first.length { s with acc := first ++ rest } =
      { accept first.length { s with acc := first } with acc := first ++ rest } := by
  simp [accept, State.put, read_zero]

/-- Settling a completed first frame accepts it and leaves what follows it. -/
theorem settle_completion {s : State} {first rest : List Byte} (h : s.acc = first ++ rest) :
    settle (completion (first ++ rest).length first.length) s =
      { accept first.length s with acc := rest, retry := 0 } := by
  have hsize : s.size = first.length + rest.length := by rw [State.size, h, List.length_append]
  obtain ⟨hl, he⟩ | ⟨-, he⟩ := completion_cases (first ++ rest).length first.length
  · obtain rfl : rest = [] := by simpa using hl
    rw [he, settle_done, hsize, List.length_nil, Nat.add_zero]
  · have hn : (first ++ rest).length - first.length = rest.length := by simp
    have he' : s.size - rest.length = first.length := by omega
    have hkeep : Memory.compact s.acc first.length rest.length = rest := by
      rw [Memory.compact, Memory.read, h, List.drop_left, List.take_length]
    rw [he, hn, settle_hasTrailingBytes, he', hkeep]

/-- A service of a first frame and any bytes behind it differs from a service of the frame alone only in
that those bytes are left. -/
theorem service_glued {s : State} {first : List Byte} (hf : IsFrameOf s.dir first) :
    ∃ u : State, ∀ rest, service { s with acc := first ++ rest } = { u with acc := rest } := by
  obtain ⟨t, ht⟩ := decodeCandidate_glued hf
  refine ⟨{ accept first.length { t with acc := first } with retry := 0 }, fun rest => ?_⟩
  rw [service_eq_settle_of_decodeCandidate (ht rest) (completion_ne_directionWrong _ _),
    settle_completion rfl, accept_glued]

/-! ### The obligations -/

/-- Settles O38: the snapshot and the records, by the CRC verdict. -/
theorem acceptSnapshotsAndReports : Obligations.AcceptSnapshotsAndReports := by
  refine fun s e _ _ => ⟨fun hv => ?_, fun hv hi => ?_, fun hv hi => ?_⟩
  · rw [accept_of_valid hv, acceptRecords_of_valid hv]
  · rw [accept_of_invalid hv, acceptRecords_of_dropped hv hi]
  · rw [accept_of_invalid hv, acceptRecords_of_ignored hv hi]

/-- Settles O39: each of the three outcomes is settled at once, and compaction keeps the end of the
accumulator, which the decoder does not write. -/
theorem serviceSettlesTheOutcome : Obligations.ServiceSettlesTheOutcome := by
  refine fun s t => ⟨fun n h => ?_, fun h => ?_, fun n h => ?_⟩
  · rw [service_eq_settle_of_decodeCandidate h FrameOutcome.noConfusion, settle_needsMoreBytes]
  · rw [service_eq_settle_of_decodeCandidate h FrameOutcome.noConfusion, settle_done]
  · have hacc : t.acc = s.acc := by rw [decodedFrom_of_decodeCandidate h]
    rw [service_of_hasTrailingBytes h, settle_hasTrailingBytes, State.size, hacc,
      compact_eq_drop s.acc n (trailing_le_size h)]

/-- Settles O40: a rejected direction writes nothing, and the retry decodes a request, which is never
rejected. -/
theorem directionWrongIsRetriedOnce : Obligations.DirectionWrongIsRetriedOnce := by
  intro s t h hr
  have hw : (decodeCandidate s).1 = .directionWrong := congrArg Prod.fst h
  exact ⟨eq_of_decodeCandidate_directionWrong h, service_eq_service_retryFlipped hw hr,
    retry_ne_directionWrong hw⟩

/-- Settles O41: `settle` of `DirectionWrong`, in the state the decoder has left alone. -/
theorem exhaustedRetriesAcceptAndClear : Obligations.ExhaustedRetriesAcceptAndClear := by
  intro s t h hr
  obtain rfl := eq_of_decodeCandidate_directionWrong h
  rw [service_of_exhausted h hr, settle_directionWrong]
  exact ⟨rfl, rfl⟩

/-- Settles O43: a service that retries is the service of the flipped state, where `DIR` is
`ExpectRequest`. -/
theorem serviceAccountsForDirection : Obligations.ServiceAccountsForDirection := by
  refine fun s hr => ⟨service_dir_of_completes, fun ⟨_, hn⟩ => service_dir_of_needsMoreBytes hn,
    fun hw => ?_⟩
  have hdir := retryFlipped_dir_of_directionWrong hw
  rw [service_eq_service_retryFlipped hw hr]
  refine ⟨fun ⟨_, hn⟩ => ?_, fun hc => ?_⟩
  · rw [service_dir_of_needsMoreBytes hn, hdir]
  · rw [service_dir_of_completes hc, hdir, dir_of_directionWrong hw, flipDir]

/-- Settles O44: every instruction reports the frame it takes, with the records that `ACCEPT` appends by
the CRC verdict. -/
theorem frameIsEmittedExactlyIfCrcValid : Obligations.FrameIsEmittedExactlyIfCrcValid := by
  intro i s t hi h
  obtain ⟨warns, hw, ⟨hout, hacc⟩ | ⟨frame, hne, hacc, hout⟩⟩ := exec_reports hi h
  · exact ⟨warns, [], by rw [hout, List.append_nil], hw, .inl ⟨rfl, hacc⟩⟩
  · refine ⟨warns, _, hout, hw, .inr ⟨frame, hne, hacc, ?_⟩⟩
    cases hv : crcChk frame with
    | true => exact .inl ⟨rfl, acceptRecords_of_valid hv⟩
    | false =>
      cases hc : s.cfg.ignoreCrc with
      | false => exact .inr (.inl ⟨rfl, rfl, acceptRecords_of_dropped hv rfl⟩)
      | true => exact .inr (.inr ⟨rfl, rfl, acceptRecords_of_ignored hv rfl⟩)

/-- Settles O46: a `GAP` reports the frame it takes, and the last record of `ACCEPT` is its `Diag`. -/
theorem gapTakesExactlyTheReportedFrame : Obligations.GapTakesExactlyTheReportedFrame := by
  intro s t h
  obtain ⟨warns, -, ⟨-, hacc⟩ | ⟨frame, hne, hacc, hout⟩⟩ := exec_reports Instr.noConfusion h
  · exact .inl (hacc.trans (List.append_nil _))
  · obtain ⟨before, hdiag⟩ := acceptRecords_ends_with_diag s.cfg.ignoreCrc frame
    refine .inr ⟨frame, s.out ++ warns ++ before, (List.append_nil _).symm.trans hacc, hne, ?_⟩
    rw [hout, hdiag, ← List.append_assoc]

/-- Settles O58: both `GAP`s are services, and the one of the frame alone is the one with no bytes behind
it. -/
theorem gluedFramesAreServedLikeFramesApart : Obligations.GluedFramesAreServedLikeFramesApart := by
  intro s u first rest hrun hhold _ hreq hrsp h
  have hf := isFrameOf_of_forall_dir hreq hrsp
  obtain ⟨v, hv⟩ := service_glued hf
  have hgap (tail : List Byte) :
      exec .gap { s with acc := first ++ tail } = .next { v with acc := tail } := by
    have hpos : 0 < (first ++ tail).length := by
      rw [List.length_append]
      exact Nat.add_pos_left hf.length_pos _
    rw [(gapServicesPendingBytes { s with acc := first ++ tail } hrun).1 ⟨hpos, hhold⟩, hv]
  have hfirst := hgap []
  rw [List.append_nil] at hfirst
  obtain rfl := Host.Outcome.next.inj (hfirst.symm.trans h)
  exact ⟨rfl, hgap rest⟩

end Sys2Proof.Machine
end

section
/-!
PROOFS. The exception statements (60_exceptions.md): no event stops a running core without a next state, the
two halts, and the exit code.
-/

namespace Sys2Proof.Machine

/-! ### The exit code, by the run status (R177) -/

section
variable {s : State}

theorem exitCode_of_running (hr : s.run = .running) : exitCode s = none := by
  rw [exitCode, hr]

theorem exitCode_of_haltEof (hr : s.run = .haltEof) : exitCode s = some 0 := by
  rw [exitCode, hr]

theorem exitCode_of_haltFatal (hr : s.run = .haltFatal) : exitCode s = some s.cfg.exitFatal := by
  rw [exitCode, hr]

end

/-- A legal `EXIT_FATAL` is not 0 (R6). -/
theorem exitFatal_ne_zero_of_wf {c : Config} (hc : c.wf = true) : c.exitFatal ≠ 0 := by
  simp only [Config.wf, Bool.and_eq_true, decide_eq_true_eq] at hc
  obtain ⟨⟨-, hexit⟩, -⟩ := hc
  exact hexit

/-! ### The obligations -/

/-- Settles O50: the running core passes the guard of each event, `SIZE < 300` that of `RXB`, and `RST` and
the two frame formats have none. -/
theorem everyEventCompletesWhileRunning : Obligations.EveryEventCompletesWhileRunning := by
  intro i s hr hs
  cases i with
  | rst => exact ⟨_, rfl⟩
  | rxb b => exact ⟨_, execRxb_running b hr hs⟩
  | gap => exact ⟨_, execGap_running hr⟩
  | eof => exact ⟨_, whenRunning_running hr _⟩
  | serr => exact ⟨_, whenRunning_running hr _⟩
  | kerr => exact ⟨_, whenRunning_running hr _⟩
  | req f => exact ⟨_, rfl⟩
  | rsp h => exact ⟨_, rfl⟩

/-- Settles O18: on a running core the event is `haltClean`. -/
theorem endOfStreamHaltsCleanly : Obligations.EndOfStreamHaltsCleanly :=
  fun _ hr => whenRunning_running hr _

/-- Settles O20: a halted core fails the guard of the five events, and `RST`, which has none, writes the
listed values. -/
theorem haltedCoreConsumesOnlyReset : Obligations.HaltedCoreConsumesOnlyReset :=
  fun s hr => ⟨fun _ => whenRunning_halted hr _, whenRunning_halted hr _, whenRunning_halted hr _,
    whenRunning_halted hr _, whenRunning_halted hr _, resetRegisters s, rfl, rfl, rfl, rfl, rfl, rfl⟩

/-- Settles O21: the exit code by the run status, and the legality of the parameter. -/
theorem exitCodeIsAFunctionOfRunStatus : Obligations.ExitCodeIsAFunctionOfRunStatus := by
  refine fun s => ⟨exitCode_of_running, exitCode_of_haltEof, fun hr => ⟨exitCode_of_haltFatal hr, ?_⟩⟩
  intro hwf hzero
  have hexit : some s.cfg.exitFatal = some 0 := (exitCode_of_haltFatal hr).symm.trans hzero
  exact exitFatal_ne_zero_of_wf hwf (Option.some.inj hexit)

end Sys2Proof.Machine
end

section
/-!
PROOFS. The hazard statement on CRC-invalid frames (70_reset_and_hazards.md): a frame that fails its CRC is
dropped, and still consumed.
-/

namespace Sys2Proof.Machine

/-- A CRC-invalid candidate that is exactly one frame is reported and cleared, and neither emitted nor saved
(R152, R156). -/
theorem service_of_done_dropped {s t : State} (h : decodeCandidate s = (.done, t))
    (hv : crcChk t.acc = false) (hi : t.cfg.ignoreCrc = false) :
    service s = { t with acc := [], retry := 0, out := t.out ++ [.diag t.acc false] } := by
  have hwhole : t.acc.take t.size = t.acc := List.take_length
  have hinvalid : crcChk (t.acc.take t.size) = false := by rw [hwhole, hv]
  rw [service_eq_settle_of_decodeCandidate h FrameOutcome.noConfusion, settle_done,
    accept_of_invalid hinvalid, hwhole, acceptRecords_of_dropped hv hi]

/-- Settles O47: the service of a dropped frame keeps the decoder's writes, among them the flip of `DIR`, and
the decoder writes neither the candidate nor the saved frame nor the parameters. -/
theorem invalidFrameIsDroppedButConsumed : Obligations.InvalidFrameIsDroppedButConsumed := by
  intro s t hr hs hh hi hdec hv
  have hfrom := decodedFrom_of_decodeCandidate hdec
  have hacc : t.acc = s.acc := by rw [hfrom]
  have hprev : t.prev = s.prev := by rw [hfrom]
  have hcfg : t.cfg = s.cfg := by rw [hfrom]
  have hservice := service_of_done_dropped hdec (by rw [hacc, hv]) (by rw [hcfg, hi])
  have hdir : t.dir = flipDir s.dir :=
    ((directionFlipsExactlyAtCompletion s t _ hdec).1 0 (.inl ⟨rfl, rfl⟩)).1
  refine ⟨?_, hdir, hprev⟩
  rw [(gapServicesPendingBytes s hr).1 ⟨hs, hh⟩, hservice, hacc]

end Sys2Proof.Machine
end

section
/-!
PROOFS. Decoding and encoding invert each other (30_encoding.md R70 to R76), and a `GAP` step runs the frame
that the decoder reads at the front of the accumulator (42_decoder.md R130, 43_controller.md R150).
-/

namespace Sys2Proof

/-! ### What is decoded from an encoded form -/

theorem parseReq_reqBytes (f : ReqFrame) : parseReq (reqBytes f) = some f := by
  rw [reqBytes, parseReq, be16_hi8_lo8, be16_hi8_lo8, le16_lo8_hi8]

theorem parseRsp_rspBytes (h : RspHeader) : parseRsp (rspBytes h) = some h := rfl

/-- Everything the frame decoder can read: a request under `ExpectRequest`, a response header under
`ExpectResponse` (R74). -/
theorem decode_frame_cases {dir : Dir} {bytes : List Byte} {i : Instr}
    (h : decode (.frame dir bytes) = .ok i) :
    (∃ f, dir = .expectRequest ∧ i = .req f ∧ parseReq bytes = some f) ∨
    (∃ r, dir = .expectResponse ∧ i = .rsp r ∧ parseRsp bytes = some r) := by
  cases dir with
  | expectRequest =>
    cases hp : parseReq bytes with
    | none => rw [decode, decodeFrame, hp] at h; exact nomatch h
    | some f => rw [decode, decodeFrame, hp] at h; cases h; exact .inl ⟨f, rfl, rfl, rfl⟩
  | expectResponse =>
    cases hp : parseRsp bytes with
    | none => rw [decode, decodeFrame, hp] at h; exact nomatch h
    | some r => rw [decode, decodeFrame, hp] at h; cases h; exact .inr ⟨r, rfl, rfl, rfl⟩

/-- Bytes after a frame's fields do not change what is decoded (R78). -/
theorem decode_frame_append {dir : Dir} {bytes : List Byte} {i : Instr}
    (h : decode (.frame dir bytes) = .ok i) (rest : List Byte) :
    decode (.frame dir (bytes ++ rest)) = .ok i := by
  obtain ⟨f, rfl, rfl, hp⟩ | ⟨r, rfl, rfl, hp⟩ := decode_frame_cases h
  · exact Machine.decode_request_iff.mpr (parseReq_append hp rest)
  · exact Machine.decode_response_iff.mpr (parseRsp_append hp rest)

theorem decode_encode (i : Instr) : decode (encode i) = .ok i := by
  cases i with
  | rst => exact decodeEvent_of_kind_zero (eventKind_eventWord 0 0)
  | rxb b => exact decodeEvent_rxb b
  | gap => exact decodeEvent_gap 0
  | eof => exact decodeEvent_of_kind_three (eventKind_eventWord 3 0)
  | serr => exact decodeEvent_of_kind_four (eventKind_eventWord 4 0)
  | kerr => exact decodeEvent_of_kind_five (eventKind_eventWord 5 0)
  | req f => exact Machine.decode_request_iff.mpr (parseReq_reqBytes f)
  | rsp h => exact Machine.decode_response_iff.mpr (parseRsp_rspBytes h)

/-! ### What a decoded instruction is encoded to -/

/-- The mask 0x700 keeps the kind and clears the data field (R71). -/
theorem and_mask_eq_eventWord (w : EventWord) : w &&& 0x700 = eventWord (eventKind w) 0 := by
  have hdata : eventData (w &&& 0x700) = 0 := by
    rw [eventData, BitVec.extractLsb'_and]
    exact BitVec.and_zero
  rw [← eventWord_kind_data (w &&& 0x700), hdata, eventKind_of_mask (w := w) rfl]

/-- Everything the event decoder can read, by the word's kind: `RXB` with the data field, or an event that
is encoded to the kind with the data field clear (R71, R72, R81). -/
theorem decodeEvent_cases {w : EventWord} {i : Instr} (h : decodeEvent w = .ok i) :
    (eventKind w = 1 ∧ i = .rxb (eventData w)) ∨
    ((∀ b, i ≠ .rxb b) ∧ encode i = .event (eventWord (eventKind w) 0)) := by
  have hkind {k : BitVec 3} (hk : (eventKind w).toNat = k.toNat) : eventKind w = k :=
    BitVec.eq_of_toNat_eq hk
  rw [decodeEvent] at h
  split at h
  case h_1 hk => cases h; exact .inr ⟨nofun, by rw [hkind (k := 0) hk]; rfl⟩
  case h_2 hk => cases h; exact .inl ⟨hkind hk, rfl⟩
  case h_3 hk => cases h; exact .inr ⟨nofun, by rw [hkind (k := 2) hk]; rfl⟩
  case h_4 hk => cases h; exact .inr ⟨nofun, by rw [hkind (k := 3) hk]; rfl⟩
  case h_5 hk => cases h; exact .inr ⟨nofun, by rw [hkind (k := 4) hk]; rfl⟩
  case h_6 hk => cases h; exact .inr ⟨nofun, by rw [hkind (k := 5) hk]; rfl⟩
  case h_7 => exact nomatch h

end Sys2Proof

namespace Sys2Proof.Machine

/-! ### The frame at the front of the accumulator, run by itself and by a `GAP` -/

/-- The instruction read at the front of the accumulator has the effect of `DECODE` (R130). -/
theorem exec_of_decode_frame {s : State} {i : Instr} (h : decode (.frame s.dir s.acc) = .ok i) :
    exec i s = .next (decodeCandidate s).2 := by
  obtain ⟨f, hd, rfl, -⟩ | ⟨r, hd, rfl, -⟩ := decode_frame_cases h
  · rw [decodeCandidate_of_decode_request hd h, exec, execReq]
  · rw [decodeCandidate_of_decode_response hd h, exec, execRsp]

/-! ### The obligations -/

/-- Settles O5: each row's encoding decodes to it, and bytes after a frame are not looked at. -/
theorem decodeInvertsEncode : Obligations.DecodeInvertsEncode := by
  refine ⟨decode_encode, fun i dir bytes rest henc => decode_frame_append ?_ rest⟩
  rw [← henc, decode_encode]

/-- Settles O6: a word is the word of its kind and data field, and the mask clears the latter; a parsed
frame stands at the front of its bytes. -/
theorem encodeInvertsDecode : Obligations.EncodeInvertsDecode := by
  refine ⟨fun w i h => ?_, fun dir bytes i h => ?_⟩
  · obtain ⟨hk, rfl⟩ | ⟨hne, henc⟩ := decodeEvent_cases h
    · exact .inl ⟨⟨_, rfl⟩, by rw [encode, ← hk, eventWord_kind_data]⟩
    · exact .inr ⟨hne, by rw [henc, and_mask_eq_eventWord]⟩
  · obtain ⟨f, rfl, rfl, hp⟩ | ⟨r, rfl, rfl, hp⟩ := decode_frame_cases h
    · obtain ⟨rest, hbytes⟩ := parseReq_some hp
      exact ⟨reqBytes f, rest, rfl, hbytes⟩
    · obtain ⟨rest, hbytes⟩ := parseRsp_some hp
      exact ⟨rspBytes r, rest, rfl, hbytes⟩

/-- Settles O9: the step is the service of the state in which the word has been consumed, by its cases on
the outcome. -/
theorem gapStepRunsTheFrameAtTheFront : Obligations.GapStepRunsTheFrameAtTheFront := by
  intro s w rest i hport hgap hrun hsize hhold hdec
  have hstep : step s = .next (service { s with port := rest }) := by
    rw [step_of_port_cons hport hgap]
    exact (gapServicesPendingBytes { s with port := rest } hrun).1 ⟨hsize, hhold⟩
  refine ⟨exec_of_decode_frame hdec, fun hne => ?_, fun hw hr => ?_⟩
  · rw [hstep, service_of_ne_directionWrong hne]
  · rw [hstep, service_eq_service_retryFlipped hw hr, State.retryFlipped]

end Sys2Proof.Machine
end
